-- ==== Sys2Proof/Word.lean ====
section
/-! DEFINITION. The datum of the block: one byte of 8 bits (00_scope.md R14 BYTE_WIDTH, R17), and a finite,
unbounded byte sequence, index 0 first (R16, R18). -/

namespace Sys2Proof

/-- A byte: an unsigned value 0 .. 255, bit 7 the most significant (00_scope.md R17). -/
abbrev Byte := BitVec 8

/-- A byte sequence, index 0 the oldest, first or leftmost; of any length (00_scope.md R16, R18). -/
abbrev Seq := List Byte

end Sys2Proof
end

