-- ==== Sys2Proof/Config.lean ====
section
/-! DEFINITION. The block's fixed constants (00_scope.md R13, R14), the example default of its one open
parameter (R15), and the free values of the working registers between operations
(93_implementation_defined.md U6). -/

namespace Sys2Proof.Config

/-- `START`, the frame opening delimiter (00_scope.md R14). -/
def START : Byte := 0x02#8
/-- `END`, the frame closing delimiter (00_scope.md R14). -/
def END : Byte := 0x03#8
/-- `ESCAPE`, the escape byte of the stuffed payload (00_scope.md R14). -/
def ESCAPE : Byte := 0x1B#8
/-- `CRC_POLY`, the low eight coefficients of the generator (00_scope.md R14, 40_crc8.md R87). -/
def CRC_POLY : Byte := 0x07#8
/-- `CRC_INIT`, the accumulator before the first byte (00_scope.md R14). -/
def CRC_INIT : Byte := 0x00#8
/-- `CRC_XOROUT`: "no final XOR" (00_scope.md R14). -/
def CRC_XOROUT : Byte := 0x00#8
/-- `MIN_FRAME_LEN`: VERIFY rejects "length < 5" (00_scope.md R14). -/
def MIN_FRAME_LEN : Nat := 5

/-- The source's "example default" of the capacity `N` (00_scope.md R15). DESIGN CHOICE (log 3): the value
`State.reset` is built with; no statement rests on it. -/
def defaultCapacity : Nat := 200

/-- What a storage cell of the ring that nothing has written reads as. DESIGN CHOICE (log 9): the spec leaves
the cell unspecified and unobservable (93_implementation_defined.md U5). -/
def blankCell : Byte := 0x00#8

/-- Free value: `crc` between two operations (93_implementation_defined.md U6; log 7). -/
opaque deadCrc : Nat → Byte
/-- Free value: `esc` between two operations (U6; log 7). -/
opaque deadEsc : Nat → Bool
/-- Free value: whether `state` is `IN_FRAME` between two operations (U6; log 7). -/
opaque deadInFrame : Nat → Bool
/-- Free value: `acc` between two operations, before its bound is applied (U6; log 7). -/
opaque deadAcc : Nat → Seq
/-- Free value: `D` between two operations, before its bound is applied (U6; log 7). -/
opaque deadD : Nat → Seq
/-- Free value: `i` between two operations, before its bound is applied (U6; log 7). -/
opaque deadI : Nat → Nat
/-- Free value: the result sequence `emit` appends to, between two operations (U6; log 7). -/
opaque deadOut : Nat → Seq

end Sys2Proof.Config
end

