-- ==== Sys2Proof/Machine/Request.lean ====
section
/-! DEFINITION. The encoded forms: what a row of spec/opcode_table.json looks like as a word with its operands
(`Code`), and what can be handed to the block (`Request`). -/

namespace Sys2Proof.Machine

/-- The operands handed over with an `op_sel` code: two byte operands and one byte sequence. The spec names the
operands of each operation (30_encoding.md R74) and gives no carrier for them. DESIGN CHOICE (log 11). -/
structure Operands where
  byte0 : Byte := 0#8
  byte1 : Byte := 0#8
  seq   : Seq := []
  deriving DecidableEq, Repr

/-- The six fields of a frame, in the order of 30_encoding.md R60. -/
inductive FrameField where
  | start
  | addr
  | cmd
  | stuffedPayload
  | checksum
  | endField
  deriving DecidableEq, Repr

/-- An encoded row of spec/opcode_table.json, by the table's `format` column: `OP` (30_encoding.md R74),
`BYTE` (R65) or `FRAME_FIELD` (R60; `word` is the field's byte, `seq` the payload). A `PSEUDO` row has no code
of its own: it is a list of `OP` codes (R76). -/
inductive Code where
  | op (sel : BitVec 4) (args : Operands)
  | byte (b : Byte)
  | field (f : FrameField) (word : Byte) (seq : Seq)
  deriving DecidableEq, Repr

/-- What stands in the queue in front of the block. An agent (60_exceptions.md R198) issues `op` requests and
nothing else. `field`, `scanStart` and `scan` are turns of the byte-serial datapaths of 10_state.md R23 and
42_frame_builder.md R120. DESIGN CHOICE (log 1, log 8, log 10). -/
inductive Request where
  /-- One operation, named by `op_sel` (30_encoding.md R74). -/
  | op (sel : BitVec 4) (args : Operands)
  /-- The builder emits one field (42_frame_builder.md R116). -/
  | field (f : FrameField) (word : Byte) (seq : Seq)
  /-- The extractor drains the buffer and loads its registers (45_frame_extractor.md R156, R157). -/
  | scanStart
  /-- The extractor takes the byte `D[i]`, or meets the end of data (45_frame_extractor.md R158, R164). -/
  | scan
  deriving DecidableEq, Repr

/-- Why a code stands for no row: a delimiter field accepts exactly one value (30_encoding.md R71). -/
inductive DecodeError where
  | delimiterWord (f : FrameField) (word : Byte)
  deriving DecidableEq, Repr

end Sys2Proof.Machine
end

