-- ==== Sys2Proof/Syntax.lean ====
section
/-! DEFINITION. The rows of spec/opcode_table.json, one constructor each: the nine operations (00_scope.md R11),
the seven unassigned `op_sel` values (30_encoding.md R75), the pseudo-operation (R76), the four byte classes
(R65) and the six frame fields (R60). -/

namespace Sys2Proof

/-- What the block can be made to do, one constructor per row of spec/opcode_table.json. -/
inductive Instr where
  /-- RESET (46_reset_op.md R180). -/
  | reset
  /-- CRC8 of the byte sequence `m` (40_crc8.md R85). -/
  | crc8 (m : Seq)
  /-- STUFF of the payload `p` (41_stuffing.md R100). -/
  | stuff (p : Seq)
  /-- UNSTUFF of `sq` (41_stuffing.md R104). -/
  | unstuff (sq : Seq)
  /-- BUILD of a frame (42_frame_builder.md R115). -/
  | build (addr cmd : Byte) (p : Seq)
  /-- VERIFY of the candidate `f` (43_frame_verifier.md R125). -/
  | verify (f : Seq)
  /-- BUF_WRITE of the byte `b` (44_stream_buffer.md R140). -/
  | bufWrite (b : Byte)
  /-- BUF_READ (44_stream_buffer.md R142). -/
  | bufRead
  /-- EXTRACT (45_frame_extractor.md R155). -/
  | extract
  /-- `op_sel = 0x9` names no operation (30_encoding.md R75). -/
  | reserved9
  /-- `op_sel = 0xA` names no operation (30_encoding.md R75). -/
  | reservedA
  /-- `op_sel = 0xB` names no operation (30_encoding.md R75). -/
  | reservedB
  /-- `op_sel = 0xC` names no operation (30_encoding.md R75). -/
  | reservedC
  /-- `op_sel = 0xD` names no operation (30_encoding.md R75). -/
  | reservedD
  /-- `op_sel = 0xE` names no operation (30_encoding.md R75). -/
  | reservedE
  /-- `op_sel = 0xF` names no operation (30_encoding.md R75). -/
  | reservedF
  /-- BUF_WRITE_BURST, the pseudo-operation (30_encoding.md R76, 20_memory.md R44). -/
  | bufWriteBurst (bytes : Seq)
  /-- The stream byte `0x02`, class `START`, as the extractor takes it (45_frame_extractor.md R159). -/
  | startByte
  /-- The stream byte `0x03`, class `END`, as the extractor takes it (45_frame_extractor.md R160, R161). -/
  | endByte
  /-- The stream byte `0x1B`, class `ESCAPE`, as the extractor takes it (45_frame_extractor.md R163). -/
  | escapeByte
  /-- A stream byte of class `DATA`, as the extractor takes it (45_frame_extractor.md R162). -/
  | dataByte (b : Byte)
  /-- Field `START` of a frame, as the builder emits it (30_encoding.md R60, 42_frame_builder.md R116). -/
  | frameStart
  /-- Field `ADDR` (30_encoding.md R60, 42_frame_builder.md R116). -/
  | frameAddr (addr : Byte)
  /-- Field `CMD` (30_encoding.md R60, 42_frame_builder.md R116). -/
  | frameCmd (cmd : Byte)
  /-- Field `STUFFED_PAYLOAD` of the payload `p` (30_encoding.md R60, 42_frame_builder.md R116). -/
  | frameStuffedPayload (p : Seq)
  /-- Field `CHECKSUM` (30_encoding.md R60, 42_frame_builder.md R116). -/
  | frameChecksum
  /-- Field `END` (30_encoding.md R60, 42_frame_builder.md R116). -/
  | frameEnd
  deriving DecidableEq, Repr

end Sys2Proof
end

