-- ==== Sys2Proof/Decode.lean ====
section
/-! DEFINITION. The classification of bytes (30_encoding.md R65), the decoder from codes to rows (R74, R75, R65,
R60), and the encoder written from the same tables. -/

namespace Sys2Proof

open Machine

/-- The four byte classes of 30_encoding.md R65. -/
inductive ByteClass where
  | start
  | endDelim
  | escape
  | data
  deriving DecidableEq, Repr

/-- `class(b)`: whole-byte equality with the three reserved values, else `DATA` (30_encoding.md R65, R77). -/
def byteClass (b : Byte) : ByteClass :=
  if b = Config.START then .start
  else if b = Config.END then .endDelim
  else if b = Config.ESCAPE then .escape
  else .data

/-- The `OP` rows: `op_sel` names the operation and takes the operands R74 lists for it; an operand the
operation does not have is not looked at (log 11). The values `0x9` to `0xF` give the constructors that stand
for "invalid" (30_encoding.md R74, R75). -/
def decodeOp (sel : BitVec 4) (a : Operands) : Instr :=
  if sel = 0x0#4 then .reset
  else if sel = 0x1#4 then .crc8 a.seq
  else if sel = 0x2#4 then .stuff a.seq
  else if sel = 0x3#4 then .unstuff a.seq
  else if sel = 0x4#4 then .build a.byte0 a.byte1 a.seq
  else if sel = 0x5#4 then .verify a.seq
  else if sel = 0x6#4 then .bufWrite a.byte0
  else if sel = 0x7#4 then .bufRead
  else if sel = 0x8#4 then .extract
  else if sel = 0x9#4 then .reserved9
  else if sel = 0xA#4 then .reservedA
  else if sel = 0xB#4 then .reservedB
  else if sel = 0xC#4 then .reservedC
  else if sel = 0xD#4 then .reservedD
  else if sel = 0xE#4 then .reservedE
  else .reservedF

/-- The `BYTE` rows (30_encoding.md R65). -/
def decodeByte (b : Byte) : Instr :=
  match byteClass b with
  | .start => .startByte
  | .endDelim => .endByte
  | .escape => .escapeByte
  | .data => .dataByte b

/-- The `FRAME_FIELD` rows (30_encoding.md R60): the two delimiter fields accept one value each (R71); the
checksum's word is not looked at, the builder computes it (42_frame_builder.md R116). -/
def decodeField (f : FrameField) (word : Byte) (seq : Seq) : Except DecodeError Instr :=
  match f with
  | .start => if word = Config.START then .ok .frameStart else .error (.delimiterWord f word)
  | .addr => .ok (.frameAddr word)
  | .cmd => .ok (.frameCmd word)
  | .stuffedPayload => .ok (.frameStuffedPayload seq)
  | .checksum => .ok .frameChecksum
  | .endField => if word = Config.END then .ok .frameEnd else .error (.delimiterWord f word)

/-- The decoder, total on every code. -/
def decode (c : Code) : Except DecodeError Instr :=
  match c with
  | .op sel a => .ok (decodeOp sel a)
  | .byte b => .ok (decodeByte b)
  | .field f w sq => decodeField f w sq

/-- The decoder over a list of codes, refusing at the first that stands for no row. -/
def decodeAll : List Code → Except DecodeError (List Instr)
  | [] => .ok []
  | c :: rest =>
    match decode c with
    | .error e => .error e
    | .ok i =>
      match decodeAll rest with
      | .error e => .error e
      | .ok is => .ok (i :: is)

/-- The codes of a row, from the tables of 30_encoding.md: R74 for the operations, R75 for the unassigned
values, R76 for the pseudo-operation (`0110` once per byte), R65 for the byte classes, R60 for the fields. -/
def encode (i : Instr) : List Code :=
  match i with
  | .reset => [.op 0x0#4 {}]
  | .crc8 m => [.op 0x1#4 { seq := m }]
  | .stuff p => [.op 0x2#4 { seq := p }]
  | .unstuff sq => [.op 0x3#4 { seq := sq }]
  | .build addr cmd p => [.op 0x4#4 { byte0 := addr, byte1 := cmd, seq := p }]
  | .verify f => [.op 0x5#4 { seq := f }]
  | .bufWrite b => [.op 0x6#4 { byte0 := b }]
  | .bufRead => [.op 0x7#4 {}]
  | .extract => [.op 0x8#4 {}]
  | .reserved9 => [.op 0x9#4 {}]
  | .reservedA => [.op 0xA#4 {}]
  | .reservedB => [.op 0xB#4 {}]
  | .reservedC => [.op 0xC#4 {}]
  | .reservedD => [.op 0xD#4 {}]
  | .reservedE => [.op 0xE#4 {}]
  | .reservedF => [.op 0xF#4 {}]
  | .bufWriteBurst bytes => bytes.map fun b => .op 0x6#4 { byte0 := b }
  | .startByte => [.byte 0x02#8]
  | .endByte => [.byte 0x03#8]
  | .escapeByte => [.byte 0x1B#8]
  | .dataByte b => [.byte b]
  | .frameStart => [.field .start 0x02#8 []]
  | .frameAddr addr => [.field .addr addr []]
  | .frameCmd cmd => [.field .cmd cmd []]
  | .frameStuffedPayload p => [.field .stuffedPayload 0x00#8 p]
  | .frameChecksum => [.field .checksum 0x00#8 []]
  | .frameEnd => [.field .endField 0x03#8 []]

/-- What a row stands for: the pseudo-operation expands to its BUF_WRITEs, byte 0 first (30_encoding.md R76);
every other row stands for itself. -/
def expand (i : Instr) : List Instr :=
  match i with
  | .bufWriteBurst bytes => bytes.map .bufWrite
  | i => [i]

/-- A word of spec/opcode_table.json as a code, its operands zero or empty. The table's `OP`, `BYTE` and
`FRAME_FIELD` words overlap. DESIGN CHOICE (log 12): a word below `0x10` is an `op_sel` (30_encoding.md R74), a
larger byte is a stream byte (R65). -/
def tableCode (nbits w : Nat) : Option Code :=
  if 2 ^ nbits ≤ w then none
  else if w < 16 then some (.op (BitVec.ofNat 4 w) {})
  else if w < 256 then some (.byte (BitVec.ofNat 8 w))
  else none

/-- The row the decoder reads from a word of spec/opcode_table.json. -/
def decodeTableWord (nbits w : Nat) : Option Instr :=
  match tableCode nbits w with
  | none => none
  | some c =>
    match decode c with
    | .ok i => some i
    | .error _ => none

end Sys2Proof
end

