-- ==== Sys2Proof/Machine/Operands.lean ====
section
/-! DEFINITION. The operand forms: operations on byte sequences (00_scope.md R18), the reserved byte values
(30_encoding.md R65), and the fields of a frame by index arithmetic from its two ends (R68). -/

namespace Sys2Proof.Machine

/-- `s[i .. j]`, both ends included, empty when `j < i` (00_scope.md R18). -/
def slice (sq : Seq) (i j : Nat) : Seq := (sq.take (j + 1)).drop i

/-- `last(s, k)`: the final `k` elements, all of `s` when `k >= |s|` (00_scope.md R18). -/
def lastBytes (sq : Seq) (k : Nat) : Seq := sq.drop (sq.length - k)

/-- The byte is one of `START`, `END`, `ESCAPE` (41_stuffing.md R101). -/
def isReserved (b : Byte) : Bool := byteClass b != .data

/-- The fields of a frame as 30_encoding.md R68 names them. -/
structure Fields where
  startByte : Byte
  addr      : Byte
  cmd       : Byte
  raw       : Seq
  cs        : Byte
  endByte   : Byte
  deriving DecidableEq, Repr

/-- The field extraction of 30_encoding.md R68, defined for `n >= 5` only (43_frame_verifier.md R130). Every index
is in range there, so `getD`'s default is never used and no subtraction underflows. -/
def frameFields (f : Seq) : Option Fields :=
  let n := f.length
  if n < Config.MIN_FRAME_LEN then none
  else some
    { startByte := f.getD 0 0#8
      addr := f.getD 1 0#8
      cmd := f.getD 2 0#8
      raw := slice f 3 (n - 3)
      cs := f.getD (n - 2) 0#8
      endByte := f.getD (n - 1) 0#8 }

end Sys2Proof.Machine
end

