-- ==== Sys2Proof/Machine/Codec.lean ====
section
/-! DEFINITION. The pure functions `stuff`, `unstuff` and `build` that the operations compute (00_scope.md R19), by
their equations in the spec. -/

namespace Sys2Proof.Machine

/-- `e(b)`: how the stuffer emits one payload byte (41_stuffing.md R101). -/
def stuffOne (b : Byte) : Seq := if isReserved b then [Config.ESCAPE, b] else [b]

/-- `stuff(p)` (41_stuffing.md R101). -/
def stuff : Seq → Seq
  | [] => []
  | b :: q => stuffOne b ++ stuff q

/-- `unstuff(s)` by its recursive equations (41_stuffing.md R105); a dangling escape is dropped (R106). -/
def unstuff : Seq → Seq
  | [] => []
  | [b] => if b = Config.ESCAPE then [] else [b]
  | b :: x :: t => if b = Config.ESCAPE then x :: unstuff t else b :: unstuff (x :: t)

/-- `build(addr, cmd, p)` as one equation (42_frame_builder.md R116). -/
def build (addr cmd : Byte) (p : Seq) : Seq :=
  [Config.START, addr, cmd] ++ stuff p ++ [crc8 ([addr, cmd] ++ p), Config.END]

end Sys2Proof.Machine
end

