-- ==== Sys2Proof/Machine/Memory.lean ====
section
/-! DEFINITION. The storage array `mem[0 .. N-1]` of the ring realisation (10_state.md R29), as a list of cells in
one canonical form: indices strictly rising, no cell listed that holds what an unlisted cell reads as. -/

namespace Sys2Proof.Machine

/-- The storage cells that differ from `Config.blankCell`, by rising index. -/
abbrev Memory := List Host.Cell

/-- The canonical form: indices strictly rising, no blank cell listed. -/
abbrev Memory.wf (m : Memory) : Prop :=
  m.Pairwise (fun x y => x.1 < y.1) ∧ ∀ c ∈ m, c.2 ≠ Config.blankCell

/-- The byte at index `a`. -/
def Memory.read : Memory → Nat → Byte
  | [], _ => Config.blankCell
  | (k, b) :: rest, a => if k = a then b else Memory.read rest a

/-- Store `b` at index `a`, keeping the canonical form. -/
def Memory.write : Memory → Nat → Byte → Memory
  | [], a, b => if b = Config.blankCell then [] else [(a, b)]
  | (k, c) :: rest, a, b =>
    if k < a then (k, c) :: Memory.write rest a b
    else if k = a then (if b = Config.blankCell then rest else (a, b) :: rest)
    else if b = Config.blankCell then (k, c) :: rest
    else (a, b) :: (k, c) :: rest

end Sys2Proof.Machine
end

