-- ==== Sys2Proof/Machine/State.lean ====
section
/-! DEFINITION. The state of the block (10_state.md R20 to R31), the two working states of the extractor, the
results, and the reasons a step can stop. -/

namespace Sys2Proof.Machine

/-- The two states of the Stream Frame Extractor (45_frame_extractor.md R157, R166). -/
inductive ScanState where
  /-- "not currently inside a candidate frame". -/
  | idle
  /-- "accumulating candidate frame bytes". -/
  | inFrame
  deriving DecidableEq, Repr

/-- The working registers of the datapaths (10_state.md R23), each loaded when an operation that uses it starts
and dead when it ends; between operations they hold free values (93_implementation_defined.md U6; log 7). -/
structure Work where
  /-- The CRC accumulator. -/
  crc   : Byte
  /-- The Byte Unstuffer's pending escape. -/
  esc   : Bool
  /-- The extractor's state. -/
  state : ScanState
  /-- The extractor's accumulator. -/
  acc   : Seq
  /-- The extractor's snapshot of the drained buffer. -/
  D     : Seq
  /-- The extractor's scan index (10_state.md R25). -/
  i     : Nat
  /-- The result sequence of the running operation, to which `emit` appends (00_scope.md R19). -/
  out   : Seq
  deriving DecidableEq, Repr

/-- The ring realisation of the buffer (10_state.md R29, 44_stream_buffer.md R143). -/
structure Ring where
  mem   : Memory
  head  : Nat
  count : Nat
  deriving DecidableEq, Repr

/-- What an operation delivers (00_scope.md R11): nothing, one byte, a byte sequence, or one bit. -/
inductive Result where
  | none
  | byte (b : Byte)
  | bytes (sq : Seq)
  | bit (v : Bool)
  deriving DecidableEq, Repr

/-- Whether a datapath is in the middle of an operation taken byte by byte or field by field. DESIGN CHOICE
(log 8, log 10): the spec's operations are atomic (00_scope.md R10), and in a run of operations it is always
`ready`. -/
inductive Phase where
  /-- No operation is in progress. -/
  | ready
  /-- The extractor is scanning `D` byte by byte. -/
  | scanning
  /-- The builder is emitting a frame field by field and takes the field `next` now. -/
  | building (next : FrameField)
  deriving DecidableEq, Repr

/-- The state of the block. -/
structure State where
  /-- The capacity `N`, fixed at construction (00_scope.md R15, 10_state.md R22). -/
  N       : Nat
  /-- `BUF`, the block's one persistent variable, oldest byte first (10_state.md R20). -/
  buf     : Seq
  /-- The ring that holds `BUF` (10_state.md R29). -/
  ring    : Ring
  /-- The working registers (10_state.md R23). -/
  work    : Work
  /-- The result the last operation delivered. MODEL'S OWN (log 5): no operation reads it. -/
  result  : Result
  /-- The requests not yet taken, first to be taken first. MODEL'S OWN (log 1): the total order of
  20_memory.md R52. -/
  pending : List Request
  /-- MODEL'S OWN (log 8, log 10). -/
  phase   : Phase
  /-- How many operations have ended: the argument of the free values. MODEL'S OWN (log 7). -/
  ended   : Nat
  deriving DecidableEq, Repr

/-- The block has no exception, trap or fault mechanism (60_exceptions.md R185) and no run is ever stuck
(93_implementation_defined.md, part 1): there is no reason for a fault, so no step answers one. -/
inductive Fault where
  deriving DecidableEq, Repr

/-- Why the block is given no meaning in a situation (60_exceptions.md R200): no state changes and no result. -/
inductive Refusal where
  /-- Raised by exec's arms of rows without a meaning; there are none now. Safe. -/
  | notModelled (mnemonic : String)
  /-- Raised by the meanings of the seven unassigned `op_sel` values: they name no operation
  (30_encoding.md R75). Safe. -/
  | reservedOpSel (sel : BitVec 4)
  /-- Raised by every other meaning when `N = 0`, which the spec gives no meaning (00_scope.md R15). Safe. -/
  | zeroCapacity
  /-- Raised by the fetch: an operation is requested while another is still in progress
  (20_memory.md R53, 93_implementation_defined.md U2). Safe. -/
  | overlap
  /-- Raised by the fetch: a datapath is given a turn of an operation it is not performing, or a field out of
  the order of 30_encoding.md R60. Safe. -/
  | outOfTurn
  /-- Raised by the step: the code stands for no row (30_encoding.md R71: a delimiter field takes one value).
  Safe. -/
  | invalidCode (e : DecodeError)
  deriving DecidableEq, Repr

/-- The working registers with the values an operation starts from (10_state.md R23). -/
def Work.initial : Work :=
  { crc := Config.CRC_INIT, esc := false, state := .idle, acc := [], D := [], i := 0, out := [] }

/-- The ring after reset: `head = 0`, `count = 0` (10_state.md R30), no cell written. -/
def Ring.empty : Ring := { mem := [], head := 0, count := 0 }

/-- The block right after reset (10_state.md R30, 70_reset_and_hazards.md R205): `BUF` is empty. `N` is the
example default (log 3), the working registers hold the values operations start from (log 6), no request waits
(log 2). -/
def State.reset : State :=
  { N := Config.defaultCapacity
    buf := []
    ring := .empty
    work := .initial
    result := .none
    pending := []
    phase := .ready
    ended := 0 }

end Sys2Proof.Machine
end

