-- ==== Sys2Proof/Machine/Flags.lean ====
section
/-! DEFINITION. The block has no flag register (10_state.md R26). Its status results, and the outcomes of
60_exceptions.md R186 that no result reports, as functions of the operands and the state. -/

namespace Sys2Proof.Machine

/-- Why VERIFY rejects (60_exceptions.md R186, R187): the spec's labels; the block reports none of them. -/
inductive Cause where
  | tooShort
  | badStart
  | badEnd
  | crcMismatch
  deriving DecidableEq, Repr

/-- The checks of VERIFY in their order: length, first byte, last byte, checksum over the unstuffed content
(43_frame_verifier.md R126 to R128, 60_exceptions.md R193). `none`: accepted. -/
def rejectCause (f : Seq) : Option Cause :=
  match frameFields f with
  | none => some .tooShort
  | some x =>
    if x.startByte ≠ Config.START then some .badStart
    else if x.endByte ≠ Config.END then some .badEnd
    else if crc8 ([x.addr, x.cmd] ++ unstuff x.raw) ≠ x.cs then some .crcMismatch
    else none

/-- `verify(f)`, the bit VERIFY delivers (43_frame_verifier.md R125). -/
def verify (f : Seq) : Bool := rejectCause f == none

/-- The derived bit `found` of an EXTRACT result (10_state.md R26). -/
def found (result : Seq) : Bool := 0 < result.length

/-- `OVERFLOW` (60_exceptions.md R186): a write now would evict the oldest byte. Nothing reports it (R189). -/
def State.overflows (s : State) : Bool := s.buf.length = s.N

/-- `DANGLING_ESCAPE` (60_exceptions.md R186, 41_stuffing.md R106): the scan of `s` ends with `esc = 1`. -/
def danglingEscape : Seq → Bool
  | [] => false
  | [b] => b = Config.ESCAPE
  | b :: x :: t => if b = Config.ESCAPE then danglingEscape t else danglingEscape (x :: t)

end Sys2Proof.Machine
end

