-- ==== Sys2Proof/Machine/Ops.lean ====
section
/-! DEFINITION. The named operations over the buffer (20_memory.md R41, R42), its ring realisation
(44_stream_buffer.md R143) and the working registers of the datapaths (10_state.md R23), the end of an operation,
and the refusals. The block takes no exception and returns from none (60_exceptions.md R185); what takes their
place is the rejection of a candidate inside EXTRACT (R194, R195), `Work.rejectCandidate`. -/

namespace Sys2Proof.Machine

/-! ### The buffer -/

/-- `BUF` after `BufWrite(b)`: evict the oldest byte first when full, then append (20_memory.md R41). -/
def bufAfterWrite (cap : Nat) (buf : Seq) (b : Byte) : Seq :=
  (if buf.length = cap then buf.tail else buf) ++ [b]

/-- The ring's step for a write (44_stream_buffer.md R143). -/
def Ring.write (r : Ring) (cap : Nat) (b : Byte) : Ring :=
  if r.count = cap then
    { r with mem := r.mem.write r.head b, head := (r.head + 1) % cap }
  else
    { r with mem := r.mem.write ((r.head + r.count) % cap) b, count := r.count + 1 }

/-- The ring's step for a drain and for RESET: `head` and `count` become 0, the cells stay
(44_stream_buffer.md R143, 10_state.md R30). -/
def Ring.clear (r : Ring) : Ring := { r with head := 0, count := 0 }

/-- The abstraction function: the `count` bytes from `head` on, modulo `N` (10_state.md R29). -/
def Ring.toSeq (r : Ring) (cap : Nat) : Seq :=
  (List.range r.count).map fun k => r.mem.read ((r.head + k) % cap)

/-- `BufWrite(b)` (20_memory.md R41), with the ring's step beside it. -/
def State.writeByte (s : State) (b : Byte) : State :=
  { s with buf := bufAfterWrite s.N s.buf b, ring := s.ring.write s.N b }

/-- The state after `BufDrain()`, whose result is the old `s.buf` (20_memory.md R42). -/
def State.drained (s : State) : State := { s with buf := [], ring := s.ring.clear }

/-! ### The end of an operation -/

/-- The working registers after an operation has ended: free values within the bounds of 10_state.md R23 and
45_frame_extractor.md R172 (93_implementation_defined.md U6; log 7). -/
def Work.dead (cap n : Nat) : Work :=
  let d := (Config.deadD n).take cap
  let i := min (Config.deadI n) d.length
  { crc := Config.deadCrc n
    esc := Config.deadEsc n
    state := if Config.deadInFrame n then .inFrame else .idle
    acc := (Config.deadAcc n).take i
    D := d
    i := i
    out := Config.deadOut n }

/-- The operation ends and delivers `r`: the working registers are dead and no other state changes. -/
def State.deliver (s : State) (r : Result) : State :=
  { s with result := r, work := Work.dead s.N s.ended, phase := .ready, ended := s.ended + 1 }

/-- Perform `f` on a block of capacity at least 1; a capacity of 0 has no meaning (00_scope.md R15, log 4). -/
def State.operate (s : State) (f : State → State) : Host.Outcome State Fault Refusal :=
  if s.N = 0 then .refused .zeroCapacity else .next (f s)

/-- An `op_sel` that names no operation: refused, no state change, no result (30_encoding.md R75). -/
def refuseReserved (sel : BitVec 4) : Host.Outcome State Fault Refusal := .refused (.reservedOpSel sel)

/-! ### The Checksum Engine, the Byte Stuffer and the Byte Unstuffer -/

/-- `emit(b)` (00_scope.md R19). -/
def Work.emit (w : Work) (b : Byte) : Work := { w with out := w.out ++ [b] }

/-- The result sequence is empty when an operation starts (00_scope.md R19). -/
def Work.clearOut (w : Work) : Work := { w with out := [] }

/-- `crc` is loaded with `0x00` when an operation starts (10_state.md R23). -/
def Work.loadCrc (w : Work) : Work := { w with crc := Config.CRC_INIT }

/-- The accumulator takes one byte (40_crc8.md R89, R90). -/
def Work.feedCrc (w : Work) (b : Byte) : Work := { w with crc := crcByte w.crc b }

/-- The checksum the accumulator holds: "no final XOR" (00_scope.md R14, 40_crc8.md R86). -/
def Work.checksum (w : Work) : Byte := w.crc ^^^ Config.CRC_XOROUT

/-- The Checksum Engine over `m`. -/
def Work.crcRun (w : Work) (m : Seq) : Work := m.foldl Work.feedCrc w.loadCrc

/-- The stuffer takes one payload byte (41_stuffing.md R101). -/
def Work.stuffByte (w : Work) (b : Byte) : Work :=
  if isReserved b then (w.emit Config.ESCAPE).emit b else w.emit b

/-- The stuffer over `p`. -/
def Work.stuffRun (w : Work) (p : Seq) : Work := p.foldl Work.stuffByte w.clearOut

/-- The unstuffer takes one byte (41_stuffing.md R105). -/
def Work.unstuffByte (w : Work) (b : Byte) : Work :=
  if w.esc then { w.emit b with esc := false }
  else if b = Config.ESCAPE then { w with esc := true }
  else w.emit b

/-- The unstuffer over `sq`: `esc` starts at 0, and what it holds at the end is discarded (41_stuffing.md R105,
R106). -/
def Work.unstuffRun (w : Work) (sq : Seq) : Work :=
  sq.foldl Work.unstuffByte { w.clearOut with esc := false }

/-! ### The Frame Builder, field by field (42_frame_builder.md R116, R120) -/

/-- Start a frame: load `crc`, empty the result, emit `START`. -/
def Work.fieldStart (w : Work) : Work := w.loadCrc.clearOut.emit Config.START

/-- Emit `ADDR` as given, feeding it to the checksum. -/
def Work.fieldAddr (w : Work) (addr : Byte) : Work := (w.feedCrc addr).emit addr

/-- Emit `CMD` as given, feeding it to the checksum. -/
def Work.fieldCmd (w : Work) (cmd : Byte) : Work := (w.feedCrc cmd).emit cmd

/-- Emit the stuffed payload, feeding the raw payload to the checksum (42_frame_builder.md R117). -/
def Work.fieldPayload (w : Work) (p : Seq) : Work := p.foldl (fun w b => (w.feedCrc b).stuffByte b) w

/-- Emit the checksum as computed, never escaped (42_frame_builder.md R119). -/
def Work.fieldChecksum (w : Work) : Work := w.emit w.checksum

/-- Emit `END`. -/
def Work.fieldEnd (w : Work) : Work := w.emit Config.END

/-- The builder over one frame: the six fields in order (42_frame_builder.md R116). -/
def Work.buildRun (w : Work) (addr cmd : Byte) (p : Seq) : Work :=
  (((((w.fieldStart).fieldAddr addr).fieldCmd cmd).fieldPayload p).fieldChecksum).fieldEnd

/-- One field has been emitted, the builder takes `next` now (30_encoding.md R60; log 10). -/
def State.emitted (s : State) (w : Work) (next : FrameField) : State :=
  { s with work := w, result := .none, phase := .building next }

/-! ### The Stream Frame Extractor, byte by byte (45_frame_extractor.md R157 to R164) -/

/-- What one byte does to the scan: the registers after it, and the frame it completes, if any. -/
abbrev ScanTurn := Work × Option Seq

/-- The scan starts on the snapshot `d` in `IDLE` with an empty accumulator (45_frame_extractor.md R156, R157). -/
def Work.loadScan (w : Work) (d : Seq) : Work := { w with D := d, i := 0, state := .idle, acc := [] }

/-- The scan index moves on by one byte (10_state.md R25). -/
def Work.advance (w : Work) : Work := { w with i := w.i + 1 }

/-- A candidate is discarded (45_frame_extractor.md R160, 60_exceptions.md R194). -/
def Work.rejectCandidate (w : Work) : Work := { w with acc := [], state := .idle }

/-- On `START`, in either state (45_frame_extractor.md R159). -/
def Work.onStart (w : Work) : ScanTurn :=
  ({ w.advance with acc := [Config.START], state := .inFrame }, none)

/-- On `END` (45_frame_extractor.md R160 in `IN_FRAME`, R161 in `IDLE`). -/
def Work.onEnd (w : Work) : ScanTurn :=
  match w.state with
  | .idle => (w.advance, none)
  | .inFrame =>
    let c := w.acc ++ [Config.END]
    if verify c then ({ w.advance with acc := c }, some c) else (w.advance.rejectCandidate, none)

/-- On any other byte, `ESCAPE` included (45_frame_extractor.md R162, R163). -/
def Work.onOther (w : Work) (b : Byte) : ScanTurn :=
  match w.state with
  | .idle => (w.advance, none)
  | .inFrame => ({ w.advance with acc := w.acc ++ [b] }, none)

/-- The extractor takes the byte `b`, by its class (45_frame_extractor.md R166). -/
def Work.scanByte (w : Work) (b : Byte) : ScanTurn :=
  match byteClass b with
  | .start => w.onStart
  | .endDelim => w.onEnd
  | .escape | .data => w.onOther b

/-- The scan over the bytes still ahead: the first frame completed, or nothing at the end of data
(45_frame_extractor.md R158, R160, R164). -/
def Work.scanRun : Work → Seq → Seq
  | _, [] => []
  | w, b :: t =>
    match w.scanByte b with
    | (_, some f) => f
    | (w', none) => w'.scanRun t

/-- The state after one byte of the scan: either the operation ends with a frame, or it goes on. -/
def State.scanned (s : State) (t : ScanTurn) : State :=
  match t.2 with
  | some f => s.deliver (.bytes f)
  | none => { s with work := t.1, result := .none }

/-- The first turn of a byte-serial EXTRACT: drain, then load the registers (45_frame_extractor.md R156, R157). -/
def State.startScan (s : State) : State :=
  { s.drained with work := s.work.loadScan s.buf, result := .none, phase := .scanning }

/-- The last turn of a byte-serial EXTRACT that met the end of data: the empty result (45_frame_extractor.md R164). -/
def State.endScan (s : State) : State := s.deliver (.bytes [])

end Sys2Proof.Machine
end

