-- ==== Sys2Proof/Machine/Buffer.lean ====
section
/-! DEFINITION. BUF_WRITE and BUF_READ (44_stream_buffer.md), and the burst (20_memory.md R44). -/

namespace Sys2Proof.Machine

/-- BUF_WRITE (44_stream_buffer.md R140). -/
def execBufWrite (b : Byte) (s : State) : Host.Outcome State Fault Refusal :=
  s.operate fun s => (s.writeByte b).deliver .none

/-- BUF_READ: deliver everything held, oldest first, and empty the buffer (44_stream_buffer.md R142). -/
def execBufRead (s : State) : Host.Outcome State Fault Refusal :=
  s.operate fun s => s.drained.deliver (.bytes s.buf)

/-- BUF_WRITE_BURST: the writes in index order (20_memory.md R44, 30_encoding.md R76; log 14). -/
def execBufWriteBurst (bytes : Seq) (s : State) : Host.Outcome State Fault Refusal :=
  s.operate fun s => (bytes.foldl State.writeByte s).deliver .none

end Sys2Proof.Machine
end

