-- ==== Sys2Proof/Machine/Extractor.lean ====
section
/-! DEFINITION. EXTRACT (45_frame_extractor.md), the pure function `scan` of R175, and the four byte classes as
the extractor takes them (30_encoding.md R70, 45_frame_extractor.md R166). -/

namespace Sys2Proof.Machine

/-- `go(d, s, a)` (45_frame_extractor.md R175). -/
def scanGo : Seq → ScanState → Seq → Seq
  | [], _, _ => []
  | b :: t, st, a =>
    if b = Config.START then scanGo t .inFrame [Config.START]
    else if b = Config.END then
      match st with
      | .idle => scanGo t .idle a
      | .inFrame => if verify (a ++ [Config.END]) then a ++ [Config.END] else scanGo t .idle []
    else
      match st with
      | .idle => scanGo t .idle a
      | .inFrame => scanGo t .inFrame (a ++ [b])

/-- `scan(d) = go(d, IDLE, ⟨⟩)` (45_frame_extractor.md R175). -/
def scan (d : Seq) : Seq := scanGo d .idle []

/-- EXTRACT: drain first, then scan the snapshot (45_frame_extractor.md R155 to R164). -/
def execExtract (s : State) : Host.Outcome State Fault Refusal :=
  s.operate fun s => s.drained.deliver (.bytes ((s.work.loadScan s.buf).scanRun s.buf))

/-- The extractor takes a `START` (45_frame_extractor.md R159; log 8). -/
def execStartByte (s : State) : Host.Outcome State Fault Refusal :=
  s.operate fun s => s.scanned s.work.onStart

/-- The extractor takes an `END` (45_frame_extractor.md R160, R161; log 8). -/
def execEndByte (s : State) : Host.Outcome State Fault Refusal :=
  s.operate fun s => s.scanned s.work.onEnd

/-- The extractor takes an `ESCAPE`: an "other byte" (45_frame_extractor.md R163; log 8). -/
def execEscapeByte (s : State) : Host.Outcome State Fault Refusal :=
  s.operate fun s => s.scanned (s.work.onOther Config.ESCAPE)

/-- The extractor takes any other byte (45_frame_extractor.md R162; log 8). -/
def execDataByte (b : Byte) (s : State) : Host.Outcome State Fault Refusal :=
  s.operate fun s => s.scanned (s.work.onOther b)

end Sys2Proof.Machine
end

