-- ==== Sys2Proof/Machine/FrameFields.lean ====
section
/-! DEFINITION. The six fields of a frame as the Frame Builder emits them, one after the other
(30_encoding.md R60, 42_frame_builder.md R116, R120; log 10). -/

namespace Sys2Proof.Machine

/-- Emit `START`, starting a frame. -/
def execFrameStart (s : State) : Host.Outcome State Fault Refusal :=
  s.operate fun s => s.emitted s.work.fieldStart .addr

/-- Emit `ADDR`. -/
def execFrameAddr (addr : Byte) (s : State) : Host.Outcome State Fault Refusal :=
  s.operate fun s => s.emitted (s.work.fieldAddr addr) .cmd

/-- Emit `CMD`. -/
def execFrameCmd (cmd : Byte) (s : State) : Host.Outcome State Fault Refusal :=
  s.operate fun s => s.emitted (s.work.fieldCmd cmd) .stuffedPayload

/-- Emit `STUFFED_PAYLOAD`. -/
def execFrameStuffedPayload (p : Seq) (s : State) : Host.Outcome State Fault Refusal :=
  s.operate fun s => s.emitted (s.work.fieldPayload p) .checksum

/-- Emit `CHECKSUM`. -/
def execFrameChecksum (s : State) : Host.Outcome State Fault Refusal :=
  s.operate fun s => s.emitted s.work.fieldChecksum .endField

/-- Emit `END` and deliver the frame. -/
def execFrameEnd (s : State) : Host.Outcome State Fault Refusal :=
  s.operate fun s => s.deliver (.bytes s.work.fieldEnd.out)

end Sys2Proof.Machine
end

