-- ==== Sys2Proof/Machine/Pure.lean ====
section
/-! DEFINITION. The five pure operations: CRC8 (40_crc8.md), STUFF and UNSTUFF (41_stuffing.md), BUILD
(42_frame_builder.md) and VERIFY (43_frame_verifier.md). Each runs its datapath over the working registers and
delivers; none reads or writes the buffer (10_state.md R32). -/

namespace Sys2Proof.Machine

/-- CRC8 (40_crc8.md R85, R90). -/
def execCrc8 (m : Seq) (s : State) : Host.Outcome State Fault Refusal :=
  s.operate fun s => s.deliver (.byte (s.work.crcRun m).checksum)

/-- STUFF (41_stuffing.md R100, R101). -/
def execStuff (p : Seq) (s : State) : Host.Outcome State Fault Refusal :=
  s.operate fun s => s.deliver (.bytes (s.work.stuffRun p).out)

/-- UNSTUFF (41_stuffing.md R104, R105). -/
def execUnstuff (sq : Seq) (s : State) : Host.Outcome State Fault Refusal :=
  s.operate fun s => s.deliver (.bytes (s.work.unstuffRun sq).out)

/-- BUILD (42_frame_builder.md R115, R116). -/
def execBuild (addr cmd : Byte) (p : Seq) (s : State) : Host.Outcome State Fault Refusal :=
  s.operate fun s => s.deliver (.bytes (s.work.buildRun addr cmd p).out)

/-- VERIFY (43_frame_verifier.md R125 to R128). -/
def execVerify (f : Seq) (s : State) : Host.Outcome State Fault Refusal :=
  s.operate fun s => s.deliver (.bit (verify f))

end Sys2Proof.Machine
end

