-- ==== Sys2Proof/Machine/System.lean ====
section
/-! DEFINITION. RESET (46_reset_op.md) and the seven unassigned `op_sel` values (30_encoding.md R75). -/

namespace Sys2Proof.Machine

/-- RESET: `BUF <- ⟨⟩`; `head` and `count` become 0; `N` stays (46_reset_op.md R180, R181). -/
def execReset (s : State) : Host.Outcome State Fault Refusal :=
  s.operate fun s => s.drained.deliver .none

/-- `op_sel = 0x9`: refused (30_encoding.md R75). -/
def execReserved9 (_s : State) : Host.Outcome State Fault Refusal := refuseReserved 0x9#4
/-- `op_sel = 0xA`: refused (30_encoding.md R75). -/
def execReservedA (_s : State) : Host.Outcome State Fault Refusal := refuseReserved 0xA#4
/-- `op_sel = 0xB`: refused (30_encoding.md R75). -/
def execReservedB (_s : State) : Host.Outcome State Fault Refusal := refuseReserved 0xB#4
/-- `op_sel = 0xC`: refused (30_encoding.md R75). -/
def execReservedC (_s : State) : Host.Outcome State Fault Refusal := refuseReserved 0xC#4
/-- `op_sel = 0xD`: refused (30_encoding.md R75). -/
def execReservedD (_s : State) : Host.Outcome State Fault Refusal := refuseReserved 0xD#4
/-- `op_sel = 0xE`: refused (30_encoding.md R75). -/
def execReservedE (_s : State) : Host.Outcome State Fault Refusal := refuseReserved 0xE#4
/-- `op_sel = 0xF`: refused (30_encoding.md R75). -/
def execReservedF (_s : State) : Host.Outcome State Fault Refusal := refuseReserved 0xF#4

end Sys2Proof.Machine
end

