-- ==== Sys2Proof/Machine/Dispatch.lean ====
section
/-! DEFINITION. The meaning of every row of spec/opcode_table.json: one arm per constructor. -/

namespace Sys2Proof.Machine

def exec (i : Instr) (s : State) : Host.Outcome State Fault Refusal :=
  match i with
  | .reset => Sys2Proof.Machine.execReset s
  | .crc8 m => Sys2Proof.Machine.execCrc8 m s
  | .stuff p => Sys2Proof.Machine.execStuff p s
  | .unstuff sq => Sys2Proof.Machine.execUnstuff sq s
  | .build addr cmd p => Sys2Proof.Machine.execBuild addr cmd p s
  | .verify f => Sys2Proof.Machine.execVerify f s
  | .bufWrite b => Sys2Proof.Machine.execBufWrite b s
  | .bufRead => Sys2Proof.Machine.execBufRead s
  | .extract => Sys2Proof.Machine.execExtract s
  | .reserved9 => Sys2Proof.Machine.execReserved9 s
  | .reservedA => Sys2Proof.Machine.execReservedA s
  | .reservedB => Sys2Proof.Machine.execReservedB s
  | .reservedC => Sys2Proof.Machine.execReservedC s
  | .reservedD => Sys2Proof.Machine.execReservedD s
  | .reservedE => Sys2Proof.Machine.execReservedE s
  | .reservedF => Sys2Proof.Machine.execReservedF s
  | .bufWriteBurst bytes => Sys2Proof.Machine.execBufWriteBurst bytes s
  | .startByte => Sys2Proof.Machine.execStartByte s
  | .endByte => Sys2Proof.Machine.execEndByte s
  | .escapeByte => Sys2Proof.Machine.execEscapeByte s
  | .dataByte b => Sys2Proof.Machine.execDataByte b s
  | .frameStart => Sys2Proof.Machine.execFrameStart s
  | .frameAddr addr => Sys2Proof.Machine.execFrameAddr addr s
  | .frameCmd cmd => Sys2Proof.Machine.execFrameCmd cmd s
  | .frameStuffedPayload p => Sys2Proof.Machine.execFrameStuffedPayload p s
  | .frameChecksum => Sys2Proof.Machine.execFrameChecksum s
  | .frameEnd => Sys2Proof.Machine.execFrameEnd s

end Sys2Proof.Machine
end

