-- ==== Sys2Proof/Machine/Fetch.lean ====
section
/-! DEFINITION. Which code the block performs next. It has no program counter and no fetch (10_state.md R25): an
operation is handed to it, and inside a byte-serial EXTRACT the scan index `i` selects the byte `D[i]`
(45_frame_extractor.md R158). -/

namespace Sys2Proof.Machine

/-- What the next step has to do. -/
inductive Fetch where
  /-- Nothing has been handed to the block: it does nothing between operations (60_exceptions.md R198). -/
  | nothing
  /-- Perform the row this code stands for. -/
  | code (c : Code)
  /-- Start a byte-serial EXTRACT. -/
  | scanStart
  /-- A byte-serial EXTRACT has met the end of data. -/
  | endOfData
  /-- Outside the contract. -/
  | refuse (r : Refusal)
  deriving DecidableEq, Repr

/-- The phase in which the builder takes the field `f`: the fields follow one another in the order of
30_encoding.md R60, `START` first. -/
def FrameField.wanted (f : FrameField) : Phase :=
  match f with
  | .start => .ready
  | f => .building f

/-- The byte `D[i]`, or the end of data (45_frame_extractor.md R158, R164). -/
def Work.fetchByte (w : Work) : Fetch :=
  match w.D[w.i]? with
  | some b => .code (.byte b)
  | none => .endOfData

/-- What the first waiting request asks for. An operation is taken only when none is in progress: two
overlapping operations have no meaning (20_memory.md R53). -/
def State.fetch (s : State) : Fetch :=
  match s.pending with
  | [] => .nothing
  | .op sel args :: _ => if s.phase = .ready then .code (.op sel args) else .refuse .overlap
  | .field f word seq :: _ => if s.phase = f.wanted then .code (.field f word seq) else .refuse .outOfTurn
  | .scanStart :: _ => if s.phase = .ready then .scanStart else .refuse .overlap
  | .scan :: _ => if s.phase = .scanning then s.work.fetchByte else .refuse .outOfTurn

/-- The first waiting request has been taken. -/
def State.taken (s : State) : State := { s with pending := s.pending.tail }

/-- The state whose next fetch gives the code `c`: an operation or a field stands first in the queue and the
block is in the phase that takes it; a stream byte is `D[i]` of a byte-serial EXTRACT. -/
def State.withFetchCode (s : State) (c : Code) : State :=
  match c with
  | .op sel args => { s with pending := .op sel args :: s.pending, phase := .ready }
  | .field f word seq => { s with pending := .field f word seq :: s.pending, phase := f.wanted }
  | .byte b =>
    { s with pending := .scan :: s.pending, phase := .scanning, work := { s.work with D := [b], i := 0 } }

end Sys2Proof.Machine
end

