-- ==== Sys2Proof/Machine/Step.lean ====
section
/-! DEFINITION. One step: one atomic operation (00_scope.md R10, 60_exceptions.md R200), or one turn of a
byte-serial one (10_state.md R23). -/

namespace Sys2Proof.Machine

/-- Take the first waiting request, decode it and perform it. With no request waiting nothing happens
(60_exceptions.md R198). -/
def step (s : State) : Host.Outcome State Fault Refusal :=
  match s.fetch with
  | .nothing => .next s
  | .scanStart => s.taken.operate State.startScan
  | .endOfData => s.taken.operate State.endScan
  | .refuse r => .refused r
  | .code c =>
    match decode c with
    | .ok i => exec i s.taken
    | .error e => .refused (.invalidCode e)

/-- `s` with the table word `w` where the next step takes it from. -/
def State.withFetchWord (s : State) (nbits w : Nat) : State :=
  match tableCode nbits w with
  | some c => s.withFetchCode c
  | none => s

end Sys2Proof.Machine
end

