-- ==== Sys2Proof/WellFormed.lean ====
section
/-! DEFINITION. Which rows are well-formed: the operand of `DATA` has that class (30_encoding.md R65), a burst
has at least one byte (R76), and an unassigned `op_sel` names no operation (R75). -/

namespace Sys2Proof

/-- A row that stands for something the block does. -/
def WellFormed (i : Instr) : Bool :=
  match i with
  | .dataByte b => byteClass b = .data
  | .bufWriteBurst bytes => !bytes.isEmpty
  | .reserved9 | .reservedA | .reservedB | .reservedC | .reservedD | .reservedE | .reservedF => false
  | .reset | .crc8 _ | .stuff _ | .unstuff _ | .build _ _ _ | .verify _ | .bufWrite _ | .bufRead | .extract
  | .startByte | .endByte | .escapeByte
  | .frameStart | .frameAddr _ | .frameCmd _ | .frameStuffedPayload _ | .frameChecksum | .frameEnd => true

end Sys2Proof
end

