-- ==== Sys2Proof/Safety.lean ====
section
/-! DEFINITION. What the claims call a good state and a request within the contract. -/

namespace Sys2Proof.Machine

/-- The storage array is in canonical form and every listed cell is one of `mem[0 .. N-1]`; `head` and `count`
are in their ranges (10_state.md R29). -/
abbrev Ring.wf (r : Ring) (cap : Nat) : Prop :=
  r.mem.wf ∧ (∀ c ∈ r.mem, c.1 < cap) ∧ r.head < cap ∧ r.count ≤ cap

/-- The bounds of the extractor's registers: `|acc| <= i <= |D| <= N` (10_state.md R23, R25,
45_frame_extractor.md R172). -/
abbrev Work.bounded (w : Work) (cap : Nat) : Prop :=
  w.acc.length ≤ w.i ∧ w.i ≤ w.D.length ∧ w.D.length ≤ cap

/-- A good state: `N >= 1` (00_scope.md R15), `|BUF| <= N` (10_state.md R21), the ring holds exactly `BUF`
(R29), and the extractor's registers are within their bounds (R23). -/
abbrev State.Inv (s : State) : Prop :=
  1 ≤ s.N ∧ s.buf.length ≤ s.N ∧ s.ring.wf s.N ∧ s.ring.toSeq s.N = s.buf ∧ s.work.bounded s.N

/-- The next request lies within the contract (60_exceptions.md R200): nothing waits, or the capacity is at
least 1, nothing overlaps, and the code names something the block does. -/
def State.inContract (s : State) : Bool :=
  match s.fetch with
  | .nothing => true
  | .scanStart | .endOfData => decide (1 ≤ s.N)
  | .refuse _ => false
  | .code c =>
    match decode c with
    | .ok i => WellFormed i && decide (1 ≤ s.N)
    | .error _ => false

/-- The nine operations (00_scope.md R11). -/
def isOperation (i : Instr) : Bool :=
  match i with
  | .reset | .crc8 _ | .stuff _ | .unstuff _ | .build _ _ _ | .verify _ | .bufWrite _ | .bufRead | .extract => true
  | .reserved9 | .reservedA | .reservedB | .reservedC | .reservedD | .reservedE | .reservedF => false
  | .bufWriteBurst _ => false
  | .startByte | .endByte | .escapeByte | .dataByte _ => false
  | .frameStart | .frameAddr _ | .frameCmd _ | .frameStuffedPayload _ | .frameChecksum | .frameEnd => false

/-- The five operations that touch no state (10_state.md R32). -/
def isPure (i : Instr) : Bool :=
  match i with
  | .crc8 _ | .stuff _ | .unstuff _ | .build _ _ _ | .verify _ => true
  | .reset | .bufWrite _ | .bufRead | .extract => false
  | .reserved9 | .reservedA | .reservedB | .reservedC | .reservedD | .reservedE | .reservedF => false
  | .bufWriteBurst _ => false
  | .startByte | .endByte | .escapeByte | .dataByte _ => false
  | .frameStart | .frameAddr _ | .frameCmd _ | .frameStuffedPayload _ | .frameChecksum | .frameEnd => false

/-- The rows that touch `BUF`: four operations (10_state.md R33), and the burst, which is BUF_WRITEs. -/
def touchesBuffer (i : Instr) : Bool :=
  match i with
  | .reset | .bufWrite _ | .bufRead | .extract | .bufWriteBurst _ => true
  | .crc8 _ | .stuff _ | .unstuff _ | .build _ _ _ | .verify _ => false
  | .reserved9 | .reservedA | .reservedB | .reservedC | .reservedD | .reservedE | .reservedF => false
  | .startByte | .endByte | .escapeByte | .dataByte _ => false
  | .frameStart | .frameAddr _ | .frameCmd _ | .frameStuffedPayload _ | .frameChecksum | .frameEnd => false

/-- The result an operation is declared to deliver (00_scope.md R11): its form, whatever its value. -/
def declaredResult (i : Instr) (r : Result) : Bool :=
  match i, r with
  | .reset, .none | .bufWrite _, .none => true
  | .crc8 _, .byte _ => true
  | .stuff _, .bytes _ | .unstuff _, .bytes _ | .build _ _ _, .bytes _ | .bufRead, .bytes _ | .extract, .bytes _ => true
  | .verify _, .bit _ => true
  | _, _ => false

/-- `t` holds the capacity, the buffer, the ring and the waiting requests of `s`. -/
abbrev State.sameStore (s t : State) : Prop :=
  t.N = s.N ∧ t.buf = s.buf ∧ t.ring = s.ring ∧ t.pending = s.pending

/-- The byte is `START` or `END`, the two values the extractor reacts to (45_frame_extractor.md R166). -/
def isDelimiter (b : Byte) : Bool := b == Config.START || b == Config.END

/-- `F[1 .. |F|-2]` (45_frame_extractor.md R170). -/
def interior (f : Seq) : Seq := slice f 1 (f.length - 2)

/-- A candidate: `START`, bytes that are no delimiter, `END` (45_frame_extractor.md R169). -/
def isCandidate (c : Seq) : Prop :=
  ∃ x : Seq, c = [Config.START] ++ x ++ [Config.END] ∧ ∀ b ∈ x, isDelimiter b = false

/-- `f` with bit `j` of the byte at index `k` flipped (43_frame_verifier.md R133). -/
def flipBit (f : Seq) (k j : Nat) : Seq := f.set k (f.getD k 0#8 ^^^ BitVec.twoPow 8 j)

/-- The number of 1 bits in a byte sequence (40_crc8.md R97). -/
def ones (sq : Seq) : Nat := (sq.flatMap msbFirst).count true

end Sys2Proof.Machine
end

