-- ==== Sys2Proof/Certificates/Slice0/Obligations.lean ====
section
/-! DEFINITION. The statements for the provers, from the numbered rules of spec/. `1 ≤ s.N` is the contract of
00_scope.md R15: the capacity is at least 1. -/

open Sys2Proof Sys2Proof.Machine

/-! ### Encodings and the step -/

/-- 30_encoding.md R74, R75: every `op_sel` code names its row. The codes are the spec's own decision (D2). -/
def Obligations.OpSelCodesNameTheirRows : Prop :=
  ∀ a : Operands,
    decode (.op 0b0000#4 a) = .ok .reset ∧ decode (.op 0b0001#4 a) = .ok (.crc8 a.seq) ∧
    decode (.op 0b0010#4 a) = .ok (.stuff a.seq) ∧ decode (.op 0b0011#4 a) = .ok (.unstuff a.seq) ∧
    decode (.op 0b0100#4 a) = .ok (.build a.byte0 a.byte1 a.seq) ∧
    decode (.op 0b0101#4 a) = .ok (.verify a.seq) ∧ decode (.op 0b0110#4 a) = .ok (.bufWrite a.byte0) ∧
    decode (.op 0b0111#4 a) = .ok .bufRead ∧ decode (.op 0b1000#4 a) = .ok .extract ∧
    decode (.op 0b1001#4 a) = .ok .reserved9 ∧ decode (.op 0b1010#4 a) = .ok .reservedA ∧
    decode (.op 0b1011#4 a) = .ok .reservedB ∧ decode (.op 0b1100#4 a) = .ok .reservedC ∧
    decode (.op 0b1101#4 a) = .ok .reservedD ∧ decode (.op 0b1110#4 a) = .ok .reservedE ∧
    decode (.op 0b1111#4 a) = .ok .reservedF

/-- 30_encoding.md R65: every byte value belongs to exactly one class, decided by whole-byte equality, and the
decoder reads each class as its row. -/
def Obligations.ByteClassesAreTheFourOfTheTable : Prop :=
  ∀ b : Byte,
    (byteClass b = .start ↔ b = 0b00000010#8) ∧ (byteClass b = .endDelim ↔ b = 0b00000011#8) ∧
    (byteClass b = .escape ↔ b = 0b00011011#8) ∧
    (byteClass b = .data ↔ b ≠ 0x02#8 ∧ b ≠ 0x03#8 ∧ b ≠ 0x1B#8) ∧
    decode (.byte b) =
      .ok (if b = 0x02#8 then .startByte else if b = 0x03#8 then .endByte
        else if b = 0x1B#8 then .escapeByte else .dataByte b)

/-- 30_encoding.md R65, R74, R76, R60: the codes of any program of well-formed rows decode to that program, with
every operand, and with each burst as its BUF_WRITEs. -/
def Obligations.DecodedProgramIsTheEncodedOne : Prop :=
  ∀ p : List Instr, (∀ i ∈ p, WellFormed i = true) → decodeAll (p.flatMap encode) = .ok (p.flatMap expand)

/-- Each word has one meaning: the row an `op_sel` code, a stream byte or a field code decodes to is encoded by
that same `op_sel`, byte or field, and decodes to itself again. -/
def Obligations.EncodedRowKeepsItsWord : Prop :=
  (∀ (sel : BitVec 4) (a : Operands), ∃ a' : Operands,
    encode (decodeOp sel a) = [.op sel a'] ∧ decodeOp sel a' = decodeOp sel a) ∧
  (∀ b : Byte, encode (decodeByte b) = [.byte b]) ∧
  (∀ (f : FrameField) (w : Byte) (sq : Seq) (i : Instr), decodeField f w sq = .ok i →
    ∃ (w' : Byte) (sq' : Seq), encode i = [.field f w' sq'] ∧ decodeField f w' sq' = .ok i)

/-- A step performs the row that the code it takes decodes to: a waiting operation, a waiting frame field, or
the byte `D[i]` of a byte-serial scan (45_frame_extractor.md R158); the request it took no longer waits. With no
request waiting nothing happens (60_exceptions.md R198). The queue and the byte-serial turns are the model's own
(log 1, log 2, log 8, log 10). -/
def Obligations.StepPerformsTheDecodedRow : Prop :=
  ∀ (s : State) (rest : List Request) (i : Instr),
    (∀ sel a, s.pending = .op sel a :: rest → s.phase = .ready → decode (.op sel a) = .ok i →
      step s = exec i { s with pending := rest }) ∧
    (∀ f w sq, s.pending = .field f w sq :: rest → s.phase = f.wanted → decode (.field f w sq) = .ok i →
      step s = exec i { s with pending := rest }) ∧
    (∀ b, s.pending = .scan :: rest → s.phase = .scanning → s.work.D[s.work.i]? = some b →
      decode (.byte b) = .ok i → step s = exec i { s with pending := rest }) ∧
    (s.pending = [] → step s = .next s)

/-- 30_encoding.md R75 (the spec's decision D2): a row of an unassigned `op_sel` is refused, whatever the state. -/
def Obligations.ReservedOpSelIsRefused : Prop :=
  ∀ s : State,
    exec .reserved9 s = .refused (.reservedOpSel 0x9#4) ∧ exec .reservedA s = .refused (.reservedOpSel 0xA#4) ∧
    exec .reservedB s = .refused (.reservedOpSel 0xB#4) ∧ exec .reservedC s = .refused (.reservedOpSel 0xC#4) ∧
    exec .reservedD s = .refused (.reservedOpSel 0xD#4) ∧ exec .reservedE s = .refused (.reservedOpSel 0xE#4) ∧
    exec .reservedF s = .refused (.reservedOpSel 0xF#4)

/-- 60_exceptions.md R200 (the spec's decision D1): a step answers a next state exactly when what it takes lies
within the contract. -/
def Obligations.StepCompletesExactlyWithinTheContract : Prop :=
  ∀ s : State, (∃ t, step s = .next t) ↔ s.inContract = true

/-- 00_scope.md R15 (the spec's decision D4): a capacity of 0 has no meaning, every row is refused. -/
def Obligations.ZeroCapacityIsRefused : Prop :=
  ∀ (i : Instr) (s : State), s.N = 0 → WellFormed i = true → exec i s = .refused .zeroCapacity

/-- 20_memory.md R53 (the spec's decision D10; log 8, log 10): an operation requested while another is in
progress is refused. -/
def Obligations.OverlappingOperationIsRefused : Prop :=
  ∀ (s : State) (sel : BitVec 4) (a : Operands) (rest : List Request),
    s.phase ≠ .ready → s.pending = .op sel a :: rest → step s = .refused .overlap

/-! ### The whole machine -/

/-- 60_exceptions.md R185: every operation completes for every operand and every state, and delivers a result of
its declared type. -/
def Obligations.EveryOperationCompletes : Prop :=
  ∀ (i : Instr) (s : State), isOperation i = true → 1 ≤ s.N →
    ∃ t, exec i s = .next t ∧ declaredResult i t.result = true

/-- 10_state.md R32: a pure operation reads and writes no buffer, and its result is a function of the operands
alone. -/
def Obligations.PureOperationsDependOnTheirOperandsAlone : Prop :=
  ∀ (i : Instr) (s s' : State), isPure i = true → 1 ≤ s.N → 1 ≤ s'.N →
    ∃ t t', exec i s = .next t ∧ exec i s' = .next t' ∧ t.result = t'.result ∧
      s.sameStore t ∧ s'.sameStore t'

/-- 10_state.md R33: only BUF_WRITE (and the burst of BUF_WRITEs), BUF_READ, EXTRACT and RESET touch `BUF`. Every
row that completes keeps the capacity (00_scope.md R15) and the requests that wait. -/
def Obligations.OnlyFourOperationsTouchTheBuffer : Prop :=
  ∀ (i : Instr) (s t : State), exec i s = .next t →
    t.N = s.N ∧ t.pending = s.pending ∧
    (touchesBuffer i = false → t.buf = s.buf ∧ t.ring = s.ring) ∧
    (i = .bufRead ∨ i = .extract ∨ i = .reset → t.buf = []) ∧
    (∀ b, i = .bufWrite b → t.buf = (if s.buf.length = s.N then s.buf.tail else s.buf) ++ [b])

/-- 10_state.md R23, R24: no operation reads a working register, a result or a status left by an earlier one. -/
def Obligations.NoOperationReadsALeftoverRegister : Prop :=
  ∀ (i : Instr) (s s' t : State), isOperation i = true → s.sameStore s' → exec i s = .next t →
    ∃ t', exec i s' = .next t' ∧ t'.result = t.result ∧ t.sameStore t'

/-- 10_state.md R30 (decisions D5, D6): after reset the buffer is empty, `head` and `count` are 0. -/
def Obligations.ResetStateHoldsNothing : Prop :=
  State.reset.buf = [] ∧ State.reset.ring.head = 0 ∧ State.reset.ring.count = 0 ∧
    State.reset.ring.toSeq State.reset.N = []

/-- The invariant of `EveryStepKeepsTheInvariant` holds right after reset. -/
def Obligations.InvariantHoldsAtReset : Prop := State.reset.Inv

/-- Every step keeps `|BUF| <= N` (10_state.md R21), the ring in its ranges and canonical form holding exactly `BUF`
(R29: decision D6; log 9), and `|acc| <= i <= |D| <= N`. While an EXTRACT runs those bounds are R23 and
45_frame_extractor.md R172, its byte-serial turns being the model's own (log 8). Between operations they are the
model's choice: 93_implementation_defined.md U6 allows any value there, and the model's free values are kept within
the bounds (log 7). -/
def Obligations.EveryStepKeepsTheInvariant : Prop :=
  ∀ s t : State, s.Inv → step s = .next t → t.Inv

/-! ### RESET and the buffer -/

/-- 46_reset_op.md R180, R181 (decisions D5, D6, D19): RESET leaves `BUF` empty, `head` and `count` 0, the cells and
the capacity as they were. -/
def Obligations.ResetEmptiesTheBuffer : Prop :=
  ∀ s : State, 1 ≤ s.N →
    ∃ t, exec .reset s = .next t ∧ t.result = .none ∧ t.buf = [] ∧ t.N = s.N ∧ t.pending = s.pending ∧
      t.ring.head = 0 ∧ t.ring.count = 0 ∧ t.ring.mem = s.ring.mem

/-- 20_memory.md R41: BUF_WRITE evicts the oldest byte first when the buffer is full, then appends. -/
def Obligations.BufWriteEvictsThenAppends : Prop :=
  ∀ (b : Byte) (s : State), 1 ≤ s.N →
    ∃ t, exec (.bufWrite b) s = .next t ∧ t.result = .none ∧
      t.buf = (if s.buf.length = s.N then s.buf.tail else s.buf) ++ [b] ∧
      (s.buf.length ≤ s.N → t.buf.length = min (s.buf.length + 1) s.N) ∧
      t.buf.getLast? = some b ∧
      t.N = s.N ∧ t.pending = s.pending

/-- 44_stream_buffer.md R143 (decision D6), the frame of the storage: BUF_WRITE stores its byte in one cell, at
`head` when the ring is full and at `(head + count) mod N` otherwise; every other cell reads as before. -/
def Obligations.BufWriteStoresInOneCell : Prop :=
  ∀ (b : Byte) (s : State) (k : Nat), 1 ≤ s.N → s.ring.mem.wf →
    ∃ t, exec (.bufWrite b) s = .next t ∧
      Memory.read t.ring.mem k =
        (if k = (if s.ring.count = s.N then s.ring.head else (s.ring.head + s.ring.count) % s.N) then b
          else Memory.read s.ring.mem k) ∧
      t.ring.head = (if s.ring.count = s.N then (s.ring.head + 1) % s.N else s.ring.head) ∧
      t.ring.count = (if s.ring.count = s.N then s.ring.count else s.ring.count + 1)

/-- 44_stream_buffer.md R143 (decision D6): a ring that holds `BUF` still holds it after BUF_WRITE, BUF_READ and
RESET. -/
def Obligations.RingRealisesTheBuffer : Prop :=
  ∀ (i : Instr) (s t : State), s.ring.wf s.N → s.ring.toSeq s.N = s.buf →
    (∃ b, i = .bufWrite b) ∨ i = .bufRead ∨ i = .reset → exec i s = .next t →
    t.ring.wf t.N ∧ t.ring.toSeq t.N = t.buf

/-- 20_memory.md R59, R44, R43: after the writes `w` to a buffer holding `B`, the buffer is `last(B ++ w, N)`. -/
def Obligations.BurstLeavesTheLastBytes : Prop :=
  ∀ (w : Seq) (s : State), 1 ≤ s.N → s.buf.length ≤ s.N →
    ∃ t, exec (.bufWriteBurst w) s = .next t ∧ t.result = .none ∧ t.buf = lastBytes (s.buf ++ w) s.N ∧
      t.N = s.N ∧ t.pending = s.pending

/-- 20_memory.md R44, 30_encoding.md R76 (decisions D2, D16): a burst has exactly the effect of its BUF_WRITEs, run
one after the other. -/
def Obligations.BurstIsItsWrites : Prop :=
  ∀ (w : Seq) (s : State) (rest : List Request), 1 ≤ s.N → s.phase = .ready →
    ∃ t u, exec (.bufWriteBurst w) s = .next t ∧
      Sys2Proof.core.run w.length { s with pending := w.map (fun b => .op 0x6#4 { byte0 := b }) ++ rest } = .next u ∧
      u.buf = t.buf ∧ u.ring = t.ring ∧ u.N = t.N ∧ u.pending = rest

/-- 20_memory.md R42: BUF_READ returns every byte held, oldest first, and leaves the buffer empty. That `head` and
`count` become 0 and the cells stay is the ring of decision D6 (44_stream_buffer.md R143; log 9). -/
def Obligations.BufReadReturnsAndEmpties : Prop :=
  ∀ s : State, 1 ≤ s.N →
    ∃ t, exec .bufRead s = .next t ∧ t.result = .bytes s.buf ∧ t.buf = [] ∧ t.N = s.N ∧
      t.pending = s.pending ∧ t.ring.mem = s.ring.mem ∧ t.ring.head = 0 ∧ t.ring.count = 0

/-- 20_memory.md R46, 70_reset_and_hazards.md R207, R208, R215: after any drain, a further BUF_READ or EXTRACT with no
write between them finds nothing. -/
def Obligations.SecondDrainFindsNothing : Prop :=
  ∀ (i j : Instr) (s t u : State), i = .bufRead ∨ i = .extract ∨ i = .reset → j = .bufRead ∨ j = .extract →
    exec i s = .next t → exec j t = .next u → u.result = .bytes []

/-! ### The checksum -/

/-- 40_crc8.md R90: CRC8 delivers the left fold of the byte step from `0x00`, with no final XOR and no reflection. -/
def Obligations.Crc8DeliversTheFold : Prop :=
  (∀ (m : Seq) (s : State), 1 ≤ s.N →
    ∃ t, exec (.crc8 m) s = .next t ∧ t.result = .byte (m.foldl crcByte 0x00#8) ∧
      t.result = .byte (crc8 m) ∧ s.sameStore t) ∧
  crc8 [] = 0x00#8 ∧ ∀ (m : Seq) (b : Byte), crc8 (m ++ [b]) = crcByte (crc8 m) b

/-- 40_crc8.md R88, R89 (from general knowledge, G2; log 15): CRC8 delivers what feeding the bits one by one gives,
bit 7 of each byte first. -/
def Obligations.Crc8FeedsBitsMostSignificantFirst : Prop :=
  ∀ (m : Seq) (s : State), 1 ≤ s.N →
    ∃ t, exec (.crc8 m) s = .next t ∧ t.result = .byte ((m.flatMap msbFirst).foldl crcBit 0x00#8)

/-- 40_crc8.md R92: the byte step is one look-up in the printed table, which has every byte once. -/
def Obligations.CrcTableIsTheByteStep : Prop :=
  (∀ c b : Byte, crcTable[(c ^^^ b).toNat]? = some (crcByte c b)) ∧ crcTable.length = 256 ∧ crcTable.Nodup

/-- 40_crc8.md R95, R96: the checksum continues over a concatenation, is linear over equal lengths, and does not see
leading zero bytes. -/
def Obligations.CrcIsIncrementalAndLinear : Prop :=
  (∀ u v : Seq, crc8 (u ++ v) = v.foldl crcByte (crc8 u)) ∧
  (∀ u v : Seq, u.length = v.length → crc8 (List.zipWith (· ^^^ ·) u v) = crc8 u ^^^ crc8 v) ∧
  (∀ m : Seq, crc8 (0x00#8 :: m) = crc8 m) ∧ ∀ n : Nat, crc8 (List.replicate n 0x00#8) = 0x00#8

/-- 40_crc8.md R97: a message followed by its checksum has checksum zero and an even number of 1 bits. -/
def Obligations.CodewordHasZeroResidueAndEvenParity : Prop :=
  ∀ m : Seq, crc8 (m ++ [crc8 m]) = 0x00#8 ∧ ones (m ++ [crc8 m]) % 2 = 0

/-- 40_crc8.md R91, R87 (from general knowledge, G1, G2; log 15): bit `j` of the checksum is the coefficient of `x^j`
in `(M(x) * x^8) mod G(x)`, with `G(x) = x^8 + x^2 + x + 1`. -/
def Obligations.CrcIsThePolynomialRemainder : Prop :=
  ∀ m : Seq,
    ((∑ k ∈ Finset.range m.length, ∑ j ∈ Finset.range 8,
        if (m.getD k 0#8).getLsbD j then (Polynomial.X : Polynomial (ZMod 2)) ^ (8 * (m.length - 1 - k) + j) else 0)
      * Polynomial.X ^ 8) %ₘ (Polynomial.X ^ 8 + Polynomial.X ^ 2 + Polynomial.X + 1)
    = ∑ j ∈ Finset.range 8, if (crc8 m).getLsbD j then Polynomial.X ^ j else 0

/-- 40_crc8.md R98: a changed codeword of the same length still checks exactly when the error polynomial is a
multiple of `G(x) = x^8 + x^2 + x + 1` (from general knowledge, G1; log 15). -/
def Obligations.UndetectedErrorIsAMultipleOfTheGenerator : Prop :=
  ∀ (m m' : Seq) (c' : Byte), m'.length = m.length →
    (crc8 m' = c' ↔
      (Polynomial.X ^ 8 + Polynomial.X ^ 2 + Polynomial.X + 1 : Polynomial (ZMod 2)) ∣
        ∑ k ∈ Finset.range (m.length + 1), ∑ j ∈ Finset.range 8,
          if ((m ++ [crc8 m]).getD k 0#8 ^^^ (m' ++ [c']).getD k 0#8).getLsbD j
          then Polynomial.X ^ (8 * (m.length - k) + j) else 0)

/-! ### Stuffing -/

/-- 41_stuffing.md R101: STUFF emits `ESCAPE` and the byte for a reserved byte, else the byte unchanged. -/
def Obligations.StuffDeliversTheStuffedPayload : Prop :=
  ∀ (p : Seq) (s : State), 1 ≤ s.N →
    ∃ t, exec (.stuff p) s = .next t ∧
      t.result = .bytes (p.flatMap fun b =>
        if b = 0x02#8 ∨ b = 0x03#8 ∨ b = 0x1B#8 then [0x1B#8, b] else [b]) ∧
      t.result = .bytes (stuff p) ∧ s.sameStore t

/-- 41_stuffing.md R102: stuffing adds one byte per reserved byte; never shrinks; unchanged exactly without reserved
bytes; doubled exactly when every byte is reserved. -/
def Obligations.StuffLengthLaw : Prop :=
  ∀ p : Seq,
    (stuff p).length = p.length + p.countP isReserved ∧
    p.length ≤ (stuff p).length ∧ (stuff p).length ≤ 2 * p.length ∧
    ((stuff p).length = p.length ↔ ∀ b ∈ p, isReserved b = false) ∧
    ((∀ b ∈ p, isReserved b = false) → stuff p = p) ∧
    ((stuff p).length = 2 * p.length ↔ ∀ b ∈ p, isReserved b = true)

/-- 41_stuffing.md R105: UNSTUFF delivers what its recursive equations give. -/
def Obligations.UnstuffDeliversTheUnstuffedPayload : Prop :=
  (∀ (sq : Seq) (s : State), 1 ≤ s.N →
    ∃ t, exec (.unstuff sq) s = .next t ∧ t.result = .bytes (unstuff sq) ∧ s.sameStore t) ∧
  unstuff [] = [] ∧ unstuff [0x1B#8] = [] ∧
  (∀ (x : Byte) (r : Seq), unstuff (0x1B#8 :: x :: r) = x :: unstuff r) ∧
  (∀ (b : Byte) (r : Seq), b ≠ 0x1B#8 → unstuff (b :: r) = b :: unstuff r)

/-- 41_stuffing.md R107: unstuffing what STUFF delivered gives the payload back. -/
def Obligations.UnstuffUndoesStuff : Prop :=
  ∀ (x : Seq) (s : State), 1 ≤ s.N →
    ∃ y t u, exec (.stuff x) s = .next t ∧ t.result = .bytes y ∧
      exec (.unstuff y) t = .next u ∧ u.result = .bytes x

/-- 41_stuffing.md R106: an `ESCAPE` that dangles at the end is silently dropped. -/
def Obligations.DanglingEscapeIsDropped : Prop :=
  ∀ (sq : Seq) (s : State), 1 ≤ s.N → danglingEscape sq = false →
    ∃ t u, exec (.unstuff (sq ++ [0x1B#8])) s = .next t ∧ exec (.unstuff sq) s = .next u ∧
      t.result = u.result

/-- 41_stuffing.md R110, R108: unstuffing drops at most every other byte, keeps the parity of the number of 1 bits,
and is undone by stuffing exactly on canonical sequences. -/
def Obligations.UnstuffLengthParityAndCanonicalForms : Prop :=
  ∀ sq : Seq,
    sq.length / 2 ≤ (unstuff sq).length ∧ (unstuff sq).length ≤ sq.length ∧
    ones (unstuff sq) % 2 = ones sq % 2 ∧
    (stuff (unstuff sq) = sq ↔ ∃ p, sq = stuff p)

/-! ### Building and verifying -/

/-- 42_frame_builder.md R116: BUILD delivers `START`, the address, the command, the stuffed payload, the checksum over
the unstuffed content, and `END`. -/
def Obligations.BuildDeliversTheFrame : Prop :=
  ∀ (addr cmd : Byte) (p : Seq) (s : State), 1 ≤ s.N →
    ∃ t, exec (.build addr cmd p) s = .next t ∧
      t.result = .bytes ([0x02#8, addr, cmd] ++ stuff p ++ [crc8 ([addr, cmd] ++ p), 0x03#8]) ∧
      s.sameStore t

/-- 30_encoding.md R61: the length of a built frame. -/
def Obligations.BuiltFrameLength : Prop :=
  ∀ (addr cmd : Byte) (p : Seq),
    (build addr cmd p).length = 5 + p.length + p.countP isReserved ∧
    5 + p.length ≤ (build addr cmd p).length ∧ (build addr cmd p).length ≤ 5 + 2 * p.length

/-- 42_frame_builder.md R121 (b): VERIFY accepts every frame BUILD delivers. -/
def Obligations.BuiltFramesVerify : Prop :=
  ∀ (addr cmd : Byte) (p : Seq) (s : State), 1 ≤ s.N →
    ∃ f t u, exec (.build addr cmd p) s = .next t ∧ t.result = .bytes f ∧
      exec (.verify f) t = .next u ∧ u.result = .bit true

/-- 42_frame_builder.md R121 (c): different operands give different frames. -/
def Obligations.BuildIsInjective : Prop :=
  ∀ (addr cmd addr' cmd' : Byte) (p p' : Seq),
    build addr cmd p = build addr' cmd' p' → addr = addr' ∧ cmd = cmd' ∧ p = p'

/-- 30_encoding.md R60, 42_frame_builder.md R116, R119: each field, emitted on its own, appends its bytes to the result
sequence, feeds the checksum what R117 says, and nothing else changes; the last one delivers. That the fields are
performed one by one is the model's own (log 10). -/
def Obligations.FrameFieldsEmitTheirBytes : Prop :=
  ∀ s : State, 1 ≤ s.N →
    (exec .frameStart s = .next { s with
      work := { s.work with crc := 0x00#8, out := [0x02#8] }, result := .none, phase := .building .addr }) ∧
    (∀ addr, exec (.frameAddr addr) s = .next { s with
      work := { s.work with crc := crcByte s.work.crc addr, out := s.work.out ++ [addr] },
      result := .none, phase := .building .cmd }) ∧
    (∀ cmd, exec (.frameCmd cmd) s = .next { s with
      work := { s.work with crc := crcByte s.work.crc cmd, out := s.work.out ++ [cmd] },
      result := .none, phase := .building .stuffedPayload }) ∧
    (∀ p, exec (.frameStuffedPayload p) s = .next { s with
      work := { s.work with crc := p.foldl crcByte s.work.crc, out := s.work.out ++ stuff p },
      result := .none, phase := .building .checksum }) ∧
    (exec .frameChecksum s = .next { s with
      work := { s.work with out := s.work.out ++ [s.work.crc] }, result := .none, phase := .building .endField }) ∧
    (∃ t, exec .frameEnd s = .next t ∧ t.result = .bytes (s.work.out ++ [0x03#8]) ∧ s.sameStore t ∧
      t.phase = .ready)

/-- 42_frame_builder.md R120: the six fields, requested one after the other, give the frame BUILD gives. -/
def Obligations.FieldByFieldBuildGivesTheFrame : Prop :=
  ∀ (addr cmd : Byte) (p : Seq) (s : State) (rest : List Request), 1 ≤ s.N → s.phase = .ready →
    ∃ t, Sys2Proof.core.run 6 { s with pending :=
        [.field .start 0x02#8 [], .field .addr addr [], .field .cmd cmd [], .field .stuffedPayload 0x00#8 p,
          .field .checksum 0x00#8 [], .field .endField 0x03#8 []] ++ rest } = .next t ∧
      t.result = .bytes (build addr cmd p) ∧ t.buf = s.buf ∧ t.ring = s.ring ∧ t.N = s.N ∧ t.pending = rest ∧
      t.phase = .ready

/-- 43_frame_verifier.md R126, R127, R128: VERIFY rejects a short or wrongly delimited sequence, and otherwise compares
the checksum of the unstuffed content with the second-to-last byte. -/
def Obligations.VerifyDeliversTheClosedForm : Prop :=
  ∀ (f : Seq) (s : State), 1 ≤ s.N →
    ∃ (t : State) (v : Bool), exec (.verify f) s = .next t ∧ t.result = .bit v ∧ s.sameStore t ∧
      (v = true ↔ 5 ≤ f.length ∧ f[0]? = some 0x02#8 ∧ f[f.length - 1]? = some 0x03#8 ∧
        ∃ addr cmd cs, f[1]? = some addr ∧ f[2]? = some cmd ∧ f[f.length - 2]? = some cs ∧
          crc8 ([addr, cmd] ++ unstuff ((f.drop 3).take (f.length - 5))) = cs)

/-- 43_frame_verifier.md R134, R129: VERIFY accepts every content between the delimiters, canonical or not, whose
checksum over the unstuffed content stands second to last. -/
def Obligations.VerifyAcceptsNonCanonicalPayloads : Prop :=
  ∀ (addr cmd : Byte) (raw : Seq) (s : State), 1 ≤ s.N →
    ∃ t, exec (.verify ([0x02#8, addr, cmd] ++ raw ++ [crc8 ([addr, cmd] ++ unstuff raw), 0x03#8])) s = .next t ∧
      t.result = .bit true

/-- 43_frame_verifier.md R133: flipping any single bit of a built frame makes VERIFY deliver false. -/
def Obligations.SingleBitFlipIsRejected : Prop :=
  ∀ (addr cmd : Byte) (p : Seq) (k j : Nat) (s : State),
    1 ≤ s.N → k < (build addr cmd p).length → j < 8 →
    ∃ t, exec (.verify (flipBit (build addr cmd p) k j)) s = .next t ∧ t.result = .bit false

/-! ### Extraction -/

/-- 45_frame_extractor.md R168: the buffer is empty after every EXTRACT. That `head` and `count` become 0 and the cells
stay is the ring of decision D6 (44_stream_buffer.md R143; log 9). -/
def Obligations.ExtractEmptiesTheBuffer : Prop :=
  ∀ s : State, 1 ≤ s.N →
    ∃ t, exec .extract s = .next t ∧ t.buf = [] ∧ t.N = s.N ∧ t.pending = s.pending ∧
      t.ring.mem = s.ring.mem ∧ t.ring.head = 0 ∧ t.ring.count = 0

/-- 45_frame_extractor.md R175: EXTRACT delivers `scan` of the content the buffer held. -/
def Obligations.ExtractDeliversTheScan : Prop :=
  ∀ s : State, 1 ≤ s.N → ∃ t, exec .extract s = .next t ∧ t.result = .bytes (scan s.buf)

/-- From 45_frame_extractor.md R167: the result is all or nothing, and in wire form. That it is a candidate of the
content is `ExtractDeliversTheFirstVerifiedCandidate`. -/
def Obligations.ExtractIsAllOrNothing : Prop :=
  ∀ s : State, 1 ≤ s.N →
    ∃ (t : State) (r : Seq), exec .extract s = .next t ∧ t.result = .bytes r ∧
      (r = [] ∨ (r.head? = some 0x02#8 ∧ r.getLast? = some 0x03#8 ∧ verify r = true ∧ 5 ≤ r.length))

/-- 45_frame_extractor.md R176, R169, R165: EXTRACT delivers the first candidate of the content, in stream order, that
verifies, and nothing if none does. -/
def Obligations.ExtractDeliversTheFirstVerifiedCandidate : Prop :=
  ∀ s : State, 1 ≤ s.N →
    ∃ (t : State) (r : Seq), exec .extract s = .next t ∧ t.result = .bytes r ∧
      ((r = [] ∧ ∀ a c z, s.buf = a ++ c ++ z → isCandidate c → verify c = false) ∨
        (∃ a z, s.buf = a ++ r ++ z ∧ isCandidate r ∧ verify r = true ∧
          ∀ a' c' z', s.buf = a' ++ c' ++ z' → isCandidate c' → verify c' = true → a.length ≤ a'.length))

/-- 45_frame_extractor.md R170 (corrected by 90_conflicts.md C1): a built frame, written whole into an empty buffer
that can hold it, is extracted exactly when its interior has no `0x02` and no `0x03`, that is when address,
command, checksum and payload have none. -/
def Obligations.FrameSurvivesExactlyWithoutInnerDelimiters : Prop :=
  ∀ (addr cmd : Byte) (p : Seq) (s : State), s.buf = [] → (build addr cmd p).length ≤ s.N →
    ∃ t u, exec (.bufWriteBurst (build addr cmd p)) s = .next t ∧ exec .extract t = .next u ∧
      (u.result = .bytes (build addr cmd p) ↔ ∀ b ∈ interior (build addr cmd p), isDelimiter b = false) ∧
      ((∀ b ∈ interior (build addr cmd p), isDelimiter b = false) ↔
        isDelimiter addr = false ∧ isDelimiter cmd = false ∧ isDelimiter (crc8 ([addr, cmd] ++ p)) = false ∧
          ∀ b ∈ p, isDelimiter b = false)

/-- 45_frame_extractor.md R178, R165: with no verified candidate in the noise before it, a frame with no inner delimiter
is extracted from any surroundings; bytes of a candidate abandoned by the frame's `START` are discarded. -/
def Obligations.FrameIsFoundBetweenNoise : Prop :=
  ∀ (addr cmd : Byte) (p noise more : Seq) (s : State), 1 ≤ s.N →
    (∀ b ∈ interior (build addr cmd p), isDelimiter b = false) → scan noise = [] →
    s.buf = noise ++ build addr cmd p ++ more →
    ∃ t, exec .extract s = .next t ∧ t.result = .bytes (build addr cmd p)

/-- 30_encoding.md R73, 70_reset_and_hazards.md R211: a frame of more than `N` bytes is never recovered through the
buffer. -/
def Obligations.FrameLongerThanTheBufferIsLost : Prop :=
  ∀ (addr cmd : Byte) (p : Seq) (s : State), 1 ≤ s.N → s.buf.length ≤ s.N → s.N < (build addr cmd p).length →
    ∃ t u r, exec (.bufWriteBurst (build addr cmd p)) s = .next t ∧ exec .extract t = .next u ∧
      u.result = .bytes r ∧ r ≠ build addr cmd p

/-- 45_frame_extractor.md R159, R160, R161, R162: what one byte of the stream does to the scan. -/
def Obligations.ScanTransitionsFollowTheByteClass : Prop :=
  ∀ s : State, 1 ≤ s.N →
    (exec .startByte s = .next { s with
      work := { s.work with acc := [0x02#8], state := .inFrame, i := s.work.i + 1 }, result := .none }) ∧
    (s.work.state = .idle →
      exec .endByte s = .next { s with work := { s.work with i := s.work.i + 1 }, result := .none } ∧
      exec .escapeByte s = .next { s with work := { s.work with i := s.work.i + 1 }, result := .none } ∧
      ∀ b, exec (.dataByte b) s = .next { s with work := { s.work with i := s.work.i + 1 }, result := .none }) ∧
    (s.work.state = .inFrame →
      (verify (s.work.acc ++ [0x03#8]) = true →
        ∃ t, exec .endByte s = .next t ∧ t.result = .bytes (s.work.acc ++ [0x03#8]) ∧ s.sameStore t ∧
          t.phase = .ready) ∧
      (verify (s.work.acc ++ [0x03#8]) = false →
        exec .endByte s = .next { s with
          work := { s.work with acc := [], state := .idle, i := s.work.i + 1 }, result := .none }) ∧
      exec .escapeByte s = .next { s with
        work := { s.work with acc := s.work.acc ++ [0x1B#8], i := s.work.i + 1 }, result := .none } ∧
      ∀ b, exec (.dataByte b) s = .next { s with
        work := { s.work with acc := s.work.acc ++ [b], i := s.work.i + 1 }, result := .none })

/-- 45_frame_extractor.md R156, R157, R164: the first turn of a byte-serial EXTRACT takes the whole buffer into `D`, in
`IDLE` with an empty accumulator; the turn that meets the end of data delivers the empty result. That the turns
are requested one by one is the model's own (log 8). -/
def Obligations.ScanStartsIdleAndEndsEmpty : Prop :=
  ∀ (s : State) (rest : List Request), 1 ≤ s.N →
    (s.pending = .scanStart :: rest → s.phase = .ready →
      ∃ t, step s = .next t ∧ t.buf = [] ∧ t.work.D = s.buf ∧ t.work.state = .idle ∧ t.work.acc = [] ∧
        t.work.i = 0 ∧ t.phase = .scanning ∧ t.pending = rest ∧ t.N = s.N) ∧
    (s.pending = .scan :: rest → s.phase = .scanning → s.work.D.length ≤ s.work.i →
      ∃ t, step s = .next t ∧ t.result = .bytes [] ∧ t.buf = s.buf ∧ t.ring = s.ring ∧ t.phase = .ready ∧
        t.pending = rest ∧ t.N = s.N)

/-- 45_frame_extractor.md R158, R164, R172, R175: an EXTRACT performed byte by byte ends after at most one turn per byte
held and one more, with the result and the buffer that the atomic EXTRACT gives (log 8). -/
def Obligations.ByteSerialExtractRefinesExtract : Prop :=
  ∀ (s : State) (rest : List Request), 1 ≤ s.N → s.phase = .ready →
    ∃ (k : Nat) (t u : State), k ≤ s.buf.length + 1 ∧
      Sys2Proof.core.run (k + 1) { s with pending := .scanStart :: (List.replicate k .scan ++ rest) } = .next t ∧
      exec .extract s = .next u ∧
      t.result = u.result ∧ t.buf = u.buf ∧ t.ring = u.ring ∧ t.N = u.N ∧ t.phase = .ready ∧ t.pending = rest
end

