-- ==== Sys2Proof/Laws/Memory.lean ====
section
/-! SUPPORT. The laws of the storage array: read after write, and that a write keeps the canonical form. -/

namespace Sys2Proof.Machine

theorem Memory.wf_nil : Memory.wf [] := by simp [Memory.wf]

/-- A cell listed after a write is the written one or was listed before. -/
theorem Memory.mem_write {m : Memory} {a : Nat} {b : Byte} {c : Host.Cell} (h : c ∈ m.write a b) :
    (c = (a, b) ∧ b ≠ Config.blankCell) ∨ c ∈ m := by
  induction m with
  | nil =>
    by_cases hb : b = Config.blankCell
    · simp [Memory.write, hb] at h
    · exact .inl ⟨by simpa [Memory.write, hb] using h, hb⟩
  | cons x rest ih =>
    obtain ⟨k, d⟩ := x
    simp only [Memory.write] at h
    split at h
    · rcases List.mem_cons.1 h with h | h
      · exact .inr (by simp [h])
      · exact (ih h).imp_right (List.mem_cons_of_mem _)
    · split at h
      all_goals
        split at h
        · exact .inr (by simp_all)
        · rename_i hb
          exact (List.mem_cons.1 h).imp (fun e => ⟨e, hb⟩) (by simp_all)

/-- A write keeps the canonical form. -/
theorem Memory.wf_write {m : Memory} (h : m.wf) (a : Nat) (b : Byte) : (m.write a b).wf := by
  refine ⟨?_, fun c hc => ?_⟩
  · induction m with
    | nil => by_cases hb : b = Config.blankCell <;> simp [Memory.write, hb]
    | cons x rest ih =>
      obtain ⟨k, d⟩ := x
      obtain ⟨hp, hn⟩ := h
      rw [List.pairwise_cons] at hp
      have hr : Memory.wf rest := ⟨hp.2, fun c hc => hn c (List.mem_cons_of_mem _ hc)⟩
      simp only [Memory.write]
      split
      · rename_i hlt
        refine List.pairwise_cons.2 ⟨fun c hc => ?_, ih hr⟩
        rcases Memory.mem_write hc with ⟨rfl, -⟩ | hc
        · exact hlt
        · exact hp.1 c hc
      · split
        · rename_i heq
          subst heq
          split
          · exact hp.2
          · exact List.pairwise_cons.2 ⟨hp.1, hp.2⟩
        · split
          · exact List.pairwise_cons.2 hp
          · refine List.pairwise_cons.2 ⟨fun c hc => ?_, List.pairwise_cons.2 hp⟩
            rcases List.mem_cons.1 hc with rfl | hc
            · change a < k
              omega
            · have := hp.1 c hc
              change a < c.1
              change k < c.1 at this
              omega
  · rcases Memory.mem_write hc with ⟨rfl, hb⟩ | hc
    · exact hb
    · exact h.2 c hc

/-- A write keeps every listed index below a bound that holds for the written one. -/
theorem Memory.write_below {m : Memory} {cap a : Nat} (b : Byte) (h : ∀ c ∈ m, c.1 < cap) (ha : a < cap) :
    ∀ c ∈ m.write a b, c.1 < cap := by
  intro c hc
  rcases Memory.mem_write hc with ⟨rfl, -⟩ | hc
  · exact ha
  · exact h c hc

/-- An index below every listed one reads as blank. -/
theorem Memory.read_blank {m : Memory} {a : Nat} (h : ∀ c ∈ m, a < c.1) : m.read a = Config.blankCell := by
  induction m with
  | nil => rfl
  | cons x rest ih =>
    obtain ⟨k, d⟩ := x
    have hk : a < k := h (k, d) (by simp)
    rw [Memory.read, if_neg (by omega)]
    exact ih fun c hc => h c (List.mem_cons_of_mem _ hc)

/-- Reading after a write: the written index gives the written byte, every other index is as before. -/
theorem Memory.read_write {m : Memory} (h : m.wf) (a k : Nat) (b : Byte) :
    (m.write a b).read k = if k = a then b else m.read k := by
  induction m with
  | nil =>
    by_cases hb : b = Config.blankCell
    · simp [Memory.write, Memory.read, hb]
    · simp [Memory.write, Memory.read, hb, eq_comm]
  | cons x rest ih =>
    obtain ⟨j, d⟩ := x
    obtain ⟨hp, hn⟩ := h
    rw [List.pairwise_cons] at hp
    have hr : Memory.wf rest := ⟨hp.2, fun c hc => hn c (List.mem_cons_of_mem _ hc)⟩
    have hj : Memory.read rest j = Config.blankCell := Memory.read_blank hp.1
    have hlow : ∀ i, i < j → Memory.read rest i = Config.blankCell := fun i hi =>
      Memory.read_blank fun c hc => by have := hp.1 c hc; change j < c.1 at this; omega
    simp only [Memory.write]
    split
    · rename_i hlt
      by_cases hk : j = k
      · subst hk
        rw [Memory.read, if_pos rfl, if_neg (by omega), Memory.read, if_pos rfl]
      · rw [Memory.read, if_neg hk, ih hr, Memory.read, if_neg hk]
    · split
      · rename_i heq
        subst heq
        split
        · rename_i hb
          by_cases hk : k = j
          · subst hk; simp [hj, hb]
          · rw [if_neg hk, Memory.read, if_neg (Ne.symm hk)]
        · by_cases hk : k = j
          · subst hk; simp [Memory.read]
          · simp [Memory.read, hk, Ne.symm hk]
      · split
        · rename_i hb
          by_cases hk : k = a
          · subst hk
            rw [if_pos rfl, Memory.read, if_neg (by omega), hlow k (by omega), hb]
          · rw [if_neg hk]
        · by_cases hk : k = a
          · subst hk; simp [Memory.read]
          · simp only [if_neg hk]
            rw [Memory.read, if_neg (Ne.symm hk)]

end Sys2Proof.Machine
end

