-- ==== Sys2Proof/Laws/State.lean ====
section
/-! SUPPORT. One lemma per field per update of the state, true by rfl. -/

namespace Sys2Proof.Machine

variable (s : State) (r : Result) (b : Byte) (w : Work) (f : FrameField)

@[simp] theorem State.deliver_N : (s.deliver r).N = s.N := rfl
@[simp] theorem State.deliver_buf : (s.deliver r).buf = s.buf := rfl
@[simp] theorem State.deliver_ring : (s.deliver r).ring = s.ring := rfl
@[simp] theorem State.deliver_work : (s.deliver r).work = Work.dead s.N s.ended := rfl
@[simp] theorem State.deliver_result : (s.deliver r).result = r := rfl
@[simp] theorem State.deliver_pending : (s.deliver r).pending = s.pending := rfl
@[simp] theorem State.deliver_phase : (s.deliver r).phase = .ready := rfl
@[simp] theorem State.deliver_ended : (s.deliver r).ended = s.ended + 1 := rfl

@[simp] theorem State.drained_N : s.drained.N = s.N := rfl
@[simp] theorem State.drained_buf : s.drained.buf = [] := rfl
@[simp] theorem State.drained_ring : s.drained.ring = s.ring.clear := rfl
@[simp] theorem State.drained_work : s.drained.work = s.work := rfl
@[simp] theorem State.drained_result : s.drained.result = s.result := rfl
@[simp] theorem State.drained_pending : s.drained.pending = s.pending := rfl
@[simp] theorem State.drained_phase : s.drained.phase = s.phase := rfl
@[simp] theorem State.drained_ended : s.drained.ended = s.ended := rfl

@[simp] theorem State.writeByte_N : (s.writeByte b).N = s.N := rfl
@[simp] theorem State.writeByte_buf : (s.writeByte b).buf = bufAfterWrite s.N s.buf b := rfl
@[simp] theorem State.writeByte_ring : (s.writeByte b).ring = s.ring.write s.N b := rfl
@[simp] theorem State.writeByte_work : (s.writeByte b).work = s.work := rfl
@[simp] theorem State.writeByte_result : (s.writeByte b).result = s.result := rfl
@[simp] theorem State.writeByte_pending : (s.writeByte b).pending = s.pending := rfl
@[simp] theorem State.writeByte_phase : (s.writeByte b).phase = s.phase := rfl
@[simp] theorem State.writeByte_ended : (s.writeByte b).ended = s.ended := rfl

@[simp] theorem State.emitted_N : (s.emitted w f).N = s.N := rfl
@[simp] theorem State.emitted_buf : (s.emitted w f).buf = s.buf := rfl
@[simp] theorem State.emitted_ring : (s.emitted w f).ring = s.ring := rfl
@[simp] theorem State.emitted_work : (s.emitted w f).work = w := rfl
@[simp] theorem State.emitted_result : (s.emitted w f).result = .none := rfl
@[simp] theorem State.emitted_pending : (s.emitted w f).pending = s.pending := rfl
@[simp] theorem State.emitted_phase : (s.emitted w f).phase = .building f := rfl
@[simp] theorem State.emitted_ended : (s.emitted w f).ended = s.ended := rfl

@[simp] theorem State.startScan_N : s.startScan.N = s.N := rfl
@[simp] theorem State.startScan_buf : s.startScan.buf = [] := rfl
@[simp] theorem State.startScan_ring : s.startScan.ring = s.ring.clear := rfl
@[simp] theorem State.startScan_work : s.startScan.work = s.work.loadScan s.buf := rfl
@[simp] theorem State.startScan_result : s.startScan.result = .none := rfl
@[simp] theorem State.startScan_pending : s.startScan.pending = s.pending := rfl
@[simp] theorem State.startScan_phase : s.startScan.phase = .scanning := rfl
@[simp] theorem State.startScan_ended : s.startScan.ended = s.ended := rfl

@[simp] theorem State.taken_N : s.taken.N = s.N := rfl
@[simp] theorem State.taken_buf : s.taken.buf = s.buf := rfl
@[simp] theorem State.taken_ring : s.taken.ring = s.ring := rfl
@[simp] theorem State.taken_work : s.taken.work = s.work := rfl
@[simp] theorem State.taken_result : s.taken.result = s.result := rfl
@[simp] theorem State.taken_pending : s.taken.pending = s.pending.tail := rfl
@[simp] theorem State.taken_phase : s.taken.phase = s.phase := rfl
@[simp] theorem State.taken_ended : s.taken.ended = s.ended := rfl

end Sys2Proof.Machine
end

