-- ==== Sys2Proof/Laws/Ops.lean ====
section
/-! SUPPORT. What each shared operation can do, said once: the capacity check, the datapaths over the working
registers, the scan, and the bounds of the dead registers. -/

namespace Sys2Proof.Machine

/-- `operate` answers a next state exactly when the capacity is at least 1, and it is `f s`. -/
theorem State.operate_eq_next {s t : State} {f : State → State} :
    s.operate f = .next t ↔ s.N ≠ 0 ∧ t = f s := by
  unfold State.operate
  split <;> simp_all [eq_comm]

theorem State.operate_of_pos {s : State} (h : 1 ≤ s.N) (f : State → State) : s.operate f = .next (f s) :=
  State.operate_eq_next.2 ⟨by omega, rfl⟩

theorem State.operate_zero {s : State} (h : s.N = 0) (f : State → State) :
    s.operate f = .refused .zeroCapacity := by
  simp [State.operate, h]

/-- The registers of an ended operation are within the bounds of 10_state.md R23. -/
theorem Work.dead_bounded (cap n : Nat) : (Work.dead cap n).bounded cap := by
  simp [Work.bounded, Work.dead]

/-- The stuffer appends the translation of each byte to the result. -/
theorem Work.stuffByte_eq (w : Work) (b : Byte) : w.stuffByte b = { w with out := w.out ++ stuffOne b } := by
  unfold Work.stuffByte stuffOne
  split <;> simp [Work.emit]

theorem stuff_eq_flatMap (p : Seq) : stuff p = p.flatMap stuffOne := by
  induction p with
  | nil => rfl
  | cons b q ih => simp [stuff, ih]

/-- The stuffer leaves `stuff p` in the result sequence. -/
theorem Work.stuffRun_out (w : Work) (p : Seq) : (w.stuffRun p).out = stuff p := by
  suffices h : ∀ v : Work, (p.foldl Work.stuffByte v).out = v.out ++ stuff p by
    simpa [Work.stuffRun, Work.clearOut] using h w.clearOut
  induction p with
  | nil => simp [stuff]
  | cons b q ih => intro v; simp [ih, Work.stuffByte_eq, stuff]

/-- The unstuffer, from either value of `esc`: a pending escape makes the next byte literal. -/
theorem Work.unstuff_foldl_out (sq : Seq) :
    ∀ w : Work, (sq.foldl Work.unstuffByte w).out
      = w.out ++ (if w.esc then unstuff (Config.ESCAPE :: sq) else unstuff sq) := by
  induction sq with
  | nil => intro w; simp [unstuff]
  | cons b t ih =>
    intro w
    cases hw : w.esc
    · by_cases hb : b = Config.ESCAPE
      · subst hb
        simp [ih, Work.unstuffByte, hw]
      · simp only [List.foldl_cons, Work.unstuffByte, hw, hb, ih, Work.emit]
        cases t <;> simp [unstuff, hb]
    · simp [ih, Work.unstuffByte, hw, Work.emit, unstuff]

/-- The unstuffer leaves `unstuff sq` in the result sequence. -/
theorem Work.unstuffRun_out (w : Work) (sq : Seq) : (w.unstuffRun sq).out = unstuff sq := by
  simp [Work.unstuffRun, Work.unstuff_foldl_out, Work.clearOut]

theorem Work.feedCrc_foldl (m : Seq) :
    ∀ w : Work, m.foldl Work.feedCrc w = { w with crc := m.foldl crcByte w.crc } := by
  induction m with
  | nil => intro w; rfl
  | cons b t ih => intro w; simp [ih, Work.feedCrc]

/-- The Checksum Engine leaves `crc8 m` in the accumulator. -/
theorem Work.crcRun_checksum (w : Work) (m : Seq) : (w.crcRun m).checksum = crc8 m := by
  simp [Work.crcRun, Work.checksum, Work.feedCrc_foldl, Work.loadCrc, crc8]

theorem Work.fieldPayload_eq (p : Seq) :
    ∀ w : Work, w.fieldPayload p = { w with crc := p.foldl crcByte w.crc, out := w.out ++ stuff p } := by
  induction p with
  | nil => intro w; simp [Work.fieldPayload, stuff]
  | cons b t ih =>
    intro w
    change Work.fieldPayload ((w.feedCrc b).stuffByte b) t = _
    simp [ih, Work.stuffByte_eq, Work.feedCrc, stuff]

/-- The builder leaves `build addr cmd p` in the result sequence. -/
theorem Work.buildRun_out (w : Work) (addr cmd : Byte) (p : Seq) :
    (w.buildRun addr cmd p).out = build addr cmd p := by
  simp [Work.buildRun, Work.fieldStart, Work.fieldAddr, Work.fieldCmd, Work.fieldPayload_eq, Work.fieldChecksum,
    Work.fieldEnd, Work.emit, Work.feedCrc, Work.loadCrc, Work.clearOut, Work.checksum, build, crc8]

/-- The scan over the registers is the pure function `go` of 45_frame_extractor.md R175. -/
theorem Work.scanRun_eq_scanGo (d : Seq) : ∀ w : Work, w.scanRun d = scanGo d w.state w.acc := by
  induction d with
  | nil => intro w; rfl
  | cons b t ih =>
    intro w
    by_cases h1 : b = Config.START
    · simp [Work.scanRun, Work.scanByte, byteClass, h1, Work.onStart, scanGo, ih]
    · by_cases h2 : b = Config.END
      · subst h2
        cases hs : w.state
        · simp [Work.scanRun, Work.scanByte, byteClass, h1, Work.onEnd, scanGo, ih, hs, Work.advance]
        · by_cases hv : verify (w.acc ++ [Config.END]) = true
          · simp [Work.scanRun, Work.scanByte, byteClass, h1, Work.onEnd, scanGo, hs, hv]
          · simp [Work.scanRun, Work.scanByte, byteClass, h1, Work.onEnd, scanGo, ih, hs, hv,
              Work.rejectCandidate]
      · have ho : w.scanByte b = w.onOther b := by
          by_cases h3 : b = Config.ESCAPE
          · subst h3; rfl
          · simp [Work.scanByte, byteClass, h1, h2, h3]
        cases hs : w.state <;> simp [Work.scanRun, ho, Work.onOther, scanGo, h1, h2, ih, hs, Work.advance]

/-- The scan of a snapshot from freshly loaded registers is `scan` of it. -/
theorem Work.scanRun_loadScan (w : Work) (d : Seq) : (w.loadScan d).scanRun d = scan d := by
  simp [Work.scanRun_eq_scanGo, scan, Work.loadScan]

/-- A turn of the scan that completes no frame moves the index on by one and keeps `D`, and the accumulator grows
by at most one byte. -/
theorem Work.scanByte_bounds {w w' : Work} {b : Byte} (h : w.scanByte b = (w', none)) :
    w'.i = w.i + 1 ∧ w'.D = w.D ∧ (w.acc.length ≤ w.i → w'.acc.length ≤ w'.i) := by
  unfold Work.scanByte Work.onStart Work.onEnd Work.onOther at h
  split at h
  · cases h; simp [Work.advance]
  · split at h
    · cases h; refine ⟨rfl, rfl, fun h => ?_⟩; simp only [Work.advance]; omega
    · dsimp only at h
      split at h
      · simp at h
      · cases h; simp [Work.advance, Work.rejectCandidate]
  all_goals
    split at h
    · cases h; refine ⟨rfl, rfl, fun h => ?_⟩; simp only [Work.advance]; omega
    · cases h; refine ⟨rfl, rfl, fun h => ?_⟩; simp only [Work.advance, List.length_append, List.length_singleton]; omega

end Sys2Proof.Machine
end

