-- ==== Sys2Proof/Laws/Exec.lean ====
section
/-! SUPPORT. One law per row: what it does, as one update of the state of a block whose capacity is at least 1,
with the datapaths replaced by the functions they compute. -/

namespace Sys2Proof.Machine

variable (s : State)

theorem exec_reset : exec .reset s = s.operate fun s => s.drained.deliver .none := rfl

theorem exec_crc8 (m : Seq) : exec (.crc8 m) s = s.operate fun s => s.deliver (.byte (crc8 m)) := by
  simp [exec, execCrc8, Work.crcRun_checksum]

theorem exec_stuff (p : Seq) : exec (.stuff p) s = s.operate fun s => s.deliver (.bytes (stuff p)) := by
  simp [exec, execStuff, Work.stuffRun_out]

theorem exec_unstuff (sq : Seq) : exec (.unstuff sq) s = s.operate fun s => s.deliver (.bytes (unstuff sq)) := by
  simp [exec, execUnstuff, Work.unstuffRun_out]

theorem exec_build (addr cmd : Byte) (p : Seq) :
    exec (.build addr cmd p) s = s.operate fun s => s.deliver (.bytes (build addr cmd p)) := by
  simp [exec, execBuild, Work.buildRun_out]

theorem exec_verify (f : Seq) : exec (.verify f) s = s.operate fun s => s.deliver (.bit (verify f)) := rfl

theorem exec_bufWrite (b : Byte) : exec (.bufWrite b) s = s.operate fun s => (s.writeByte b).deliver .none := rfl

theorem exec_bufRead : exec .bufRead s = s.operate fun s => s.drained.deliver (.bytes s.buf) := rfl

theorem exec_extract : exec .extract s = s.operate fun s => s.drained.deliver (.bytes (scan s.buf)) := by
  simp [exec, execExtract, Work.scanRun_loadScan]

theorem exec_bufWriteBurst (bytes : Seq) :
    exec (.bufWriteBurst bytes) s = s.operate fun s => (bytes.foldl State.writeByte s).deliver .none := rfl

theorem exec_startByte : exec .startByte s = s.operate fun s => s.scanned (s.work.scanByte Config.START) := rfl

theorem exec_endByte : exec .endByte s = s.operate fun s => s.scanned (s.work.scanByte Config.END) := rfl

theorem exec_escapeByte : exec .escapeByte s = s.operate fun s => s.scanned (s.work.scanByte Config.ESCAPE) := rfl

/-- A data byte's row takes its operand as an "other byte", whatever its value. -/
theorem exec_dataByte_onOther (b : Byte) :
    exec (.dataByte b) s = s.operate fun s => s.scanned (s.work.onOther b) := rfl

theorem exec_dataByte {b : Byte} (h : byteClass b = .data) :
    exec (.dataByte b) s = s.operate fun s => s.scanned (s.work.scanByte b) := by
  simp [exec, execDataByte, Work.scanByte, h]

/-- The row a stream byte decodes to takes that byte in the scan. -/
theorem exec_decodeByte (b : Byte) :
    exec (decodeByte b) s = s.operate fun s => s.scanned (s.work.scanByte b) := by
  unfold decodeByte
  by_cases h1 : b = Config.START
  · subst h1; rfl
  · by_cases h2 : b = Config.END
    · subst h2; rfl
    · by_cases h3 : b = Config.ESCAPE
      · subst h3; rfl
      · have h : byteClass b = .data := by simp [byteClass, h1, h2, h3]
        simp only [h]
        exact exec_dataByte s h

theorem exec_frameStart : exec .frameStart s = s.operate fun s => s.emitted s.work.fieldStart .addr := rfl

theorem exec_frameAddr (addr : Byte) :
    exec (.frameAddr addr) s = s.operate fun s => s.emitted (s.work.fieldAddr addr) .cmd := rfl

theorem exec_frameCmd (cmd : Byte) :
    exec (.frameCmd cmd) s = s.operate fun s => s.emitted (s.work.fieldCmd cmd) .stuffedPayload := rfl

theorem exec_frameStuffedPayload (p : Seq) :
    exec (.frameStuffedPayload p) s = s.operate fun s => s.emitted (s.work.fieldPayload p) .checksum := rfl

theorem exec_frameChecksum :
    exec .frameChecksum s = s.operate fun s => s.emitted s.work.fieldChecksum .endField := rfl

theorem exec_frameEnd :
    exec .frameEnd s = s.operate fun s => s.deliver (.bytes s.work.fieldEnd.out) := rfl

/-- What a row can do: update the state of a block whose capacity is at least 1, or be refused whatever the state. -/
theorem exec_cases (i : Instr) :
    (∃ f, ∀ s, exec i s = s.operate f) ∨
      (WellFormed i = false ∧ ∃ sel, ∀ s, exec i s = .refused (.reservedOpSel sel)) := by
  cases i with
  | reserved9 | reservedA | reservedB | reservedC | reservedD | reservedE | reservedF =>
    exact .inr ⟨rfl, _, fun _ => rfl⟩
  | _ => exact .inl ⟨_, fun _ => rfl⟩

/-- Every well-formed row is one update of the state of a block whose capacity is at least 1. -/
theorem exec_operates {i : Instr} (h : WellFormed i = true) : ∃ f, ∀ s, exec i s = s.operate f := by
  rcases exec_cases i with hf | ⟨hw, -⟩
  · exact hf
  · simp [hw] at h

/-- A row that completes ran on a block whose capacity is at least 1. -/
theorem exec_next_pos {i : Instr} {s t : State} (h : exec i s = .next t) : 1 ≤ s.N := by
  rcases exec_cases i with ⟨f, hf⟩ | ⟨-, sel, hr⟩
  · rw [hf] at h
    have := (State.operate_eq_next.1 h).1
    omega
  · simp [hr] at h

end Sys2Proof.Machine
end

