-- ==== Sys2Proof/Laws/PerInstr.lean ====
section
/-! SUPPORT. Per-constructor laws: decoding the codes of a row gives what the row stands for. -/

namespace Sys2Proof.Laws.RoundTrip

/-- Decoding the codes of a well-formed `i` gives `i`, a burst expanded (30_encoding.md R76). -/
def Statement (i : Instr) : Prop := WellFormed i = true → decodeAll (encode i) = .ok (expand i)

theorem reset : Statement .reset := fun _ => rfl
theorem crc8 (m : Seq) : Statement (.crc8 m) := fun _ => rfl
theorem stuff (p : Seq) : Statement (.stuff p) := fun _ => rfl
theorem unstuff (sq : Seq) : Statement (.unstuff sq) := fun _ => rfl
theorem build (addr cmd : Byte) (p : Seq) : Statement (.build addr cmd p) := fun _ => rfl
theorem verify (f : Seq) : Statement (.verify f) := fun _ => rfl
theorem bufWrite (b : Byte) : Statement (.bufWrite b) := fun _ => rfl
theorem bufRead : Statement .bufRead := fun _ => rfl
theorem extract : Statement .extract := fun _ => rfl
theorem reserved9 : Statement .reserved9 := fun _ => rfl
theorem reservedA : Statement .reservedA := fun _ => rfl
theorem reservedB : Statement .reservedB := fun _ => rfl
theorem reservedC : Statement .reservedC := fun _ => rfl
theorem reservedD : Statement .reservedD := fun _ => rfl
theorem reservedE : Statement .reservedE := fun _ => rfl
theorem reservedF : Statement .reservedF := fun _ => rfl
theorem bufWriteBurst (bytes : Seq) : Statement (.bufWriteBurst bytes) := by
  intro h
  clear h
  induction bytes with
  | nil => rfl
  | cons b t ih =>
    simp only [encode, expand, List.map_cons, decodeAll] at ih ⊢
    rw [ih]
    rfl
theorem startByte : Statement .startByte := fun _ => rfl
theorem endByte : Statement .endByte := fun _ => rfl
theorem escapeByte : Statement .escapeByte := fun _ => rfl
theorem dataByte (b : Byte) : Statement (.dataByte b) := by
  intro h
  have h : byteClass b = .data := by simpa [WellFormed] using h
  simp [ encode, decodeAll, decode, decodeByte, h, expand]
theorem frameStart : Statement .frameStart := fun _ => rfl
theorem frameAddr (addr : Byte) : Statement (.frameAddr addr) := fun _ => rfl
theorem frameCmd (cmd : Byte) : Statement (.frameCmd cmd) := fun _ => rfl
theorem frameStuffedPayload (p : Seq) : Statement (.frameStuffedPayload p) := fun _ => rfl
theorem frameChecksum : Statement .frameChecksum := fun _ => rfl
theorem frameEnd : Statement .frameEnd := fun _ => rfl

end Sys2Proof.Laws.RoundTrip
end

