-- ==== Sys2Proof/Tests/Slice0.lean ====
section
/-! SUPPORT. The model's own tests: the well-formedness smoke, one written-out word per row, small checks on the vectors of
95_test_vectors.md, and for each statement with hypotheses a witness that meets them all. Expected values are the
spec's, never the model's own. -/

namespace Sys2Proof.Tests

open Sys2Proof Sys2Proof.Machine

/-! ### Helpers -/

/-- A block of capacity `n` that holds what writing `sq` leaves, with the queue `q`. -/
def holding (n : Nat) (sq : Seq) (q : List Request := []) : State :=
  { sq.foldl State.writeByte { State.reset with N := n } with pending := q }

/-- A block in the middle of a byte-serial EXTRACT on the snapshot `d`. -/
def scanningAt (st : ScanState) (acc d : Seq) (i : Nat) : State :=
  { holding 16 [] [.scan] with
    phase := .scanning, work := { Work.initial with state := st, acc := acc, D := d, i := i } }

/-- A block whose builder has emitted `out` with the accumulator `crc` and takes `next`. -/
def buildingAt (next : FrameField) (crc : Byte) (out : Seq) : State :=
  { holding 16 [] with phase := .building next, work := { Work.initial with crc := crc, out := out } }

/-- What `f` reads from the next state. -/
def after {α : Type} (o : Host.Outcome State Fault Refusal) (f : State → α) : Option α :=
  match o with
  | .next s => some (f s)
  | .fault _ => none
  | .refused _ => none

/-! ### Well-formedness: each check refuses an ill-formed row -/

theorem test_wf_data_is_not_start : WellFormed (.dataByte 0x02#8) = false := by decide

theorem test_wf_data_is_not_end : WellFormed (.dataByte 0x03#8) = false := by decide

theorem test_wf_data_is_not_escape : WellFormed (.dataByte 0x1B#8) = false := by decide

theorem test_wf_burst_is_not_empty : WellFormed (.bufWriteBurst []) = false := by decide

theorem test_wf_reserved :
    WellFormed .reserved9 = false ∧ WellFormed .reservedA = false ∧ WellFormed .reservedB = false ∧
    WellFormed .reservedC = false ∧ WellFormed .reservedD = false ∧ WellFormed .reservedE = false ∧
    WellFormed .reservedF = false := by decide

theorem test_wf_data : WellFormed (.dataByte 0x1C#8) = true := by decide

theorem test_wf_burst : WellFormed (.bufWriteBurst [0x02#8]) = true := by decide

/-! ### Words written out from 30_encoding.md R74, R75, R65 and R60 -/

theorem test_word_reset : decode (.op 0b0000#4 { byte0 := 0x05#8, byte1 := 0x10#8, seq := [0x41#8, 0x42#8] }) =
    .ok (.reset) := rfl

theorem test_word_crc8 : decode (.op 0b0001#4 { byte0 := 0x05#8, byte1 := 0x10#8, seq := [0x41#8, 0x42#8] }) =
    .ok (.crc8 [0x41#8, 0x42#8]) := rfl

theorem test_word_stuff : decode (.op 0b0010#4 { byte0 := 0x05#8, byte1 := 0x10#8, seq := [0x41#8, 0x42#8] }) =
    .ok (.stuff [0x41#8, 0x42#8]) := rfl

theorem test_word_unstuff : decode (.op 0b0011#4 { byte0 := 0x05#8, byte1 := 0x10#8, seq := [0x41#8, 0x42#8] }) =
    .ok (.unstuff [0x41#8, 0x42#8]) := rfl

theorem test_word_build : decode (.op 0b0100#4 { byte0 := 0x05#8, byte1 := 0x10#8, seq := [0x41#8, 0x42#8] }) =
    .ok (.build 0x05#8 0x10#8 [0x41#8, 0x42#8]) := rfl

theorem test_word_verify : decode (.op 0b0101#4 { byte0 := 0x05#8, byte1 := 0x10#8, seq := [0x41#8, 0x42#8] }) =
    .ok (.verify [0x41#8, 0x42#8]) := rfl

theorem test_word_buf_write : decode (.op 0b0110#4 { byte0 := 0x05#8, byte1 := 0x10#8, seq := [0x41#8, 0x42#8] }) =
    .ok (.bufWrite 0x05#8) := rfl

theorem test_word_buf_read : decode (.op 0b0111#4 { byte0 := 0x05#8, byte1 := 0x10#8, seq := [0x41#8, 0x42#8] }) =
    .ok (.bufRead) := rfl

theorem test_word_extract : decode (.op 0b1000#4 { byte0 := 0x05#8, byte1 := 0x10#8, seq := [0x41#8, 0x42#8] }) =
    .ok (.extract) := rfl

theorem test_word_reserved_9 : decode (.op 0b1001#4 { byte0 := 0x05#8, byte1 := 0x10#8, seq := [0x41#8, 0x42#8] }) =
    .ok (.reserved9) := rfl

theorem test_word_reserved_A : decode (.op 0b1010#4 { byte0 := 0x05#8, byte1 := 0x10#8, seq := [0x41#8, 0x42#8] }) =
    .ok (.reservedA) := rfl

theorem test_word_reserved_B : decode (.op 0b1011#4 { byte0 := 0x05#8, byte1 := 0x10#8, seq := [0x41#8, 0x42#8] }) =
    .ok (.reservedB) := rfl

theorem test_word_reserved_C : decode (.op 0b1100#4 { byte0 := 0x05#8, byte1 := 0x10#8, seq := [0x41#8, 0x42#8] }) =
    .ok (.reservedC) := rfl

theorem test_word_reserved_D : decode (.op 0b1101#4 { byte0 := 0x05#8, byte1 := 0x10#8, seq := [0x41#8, 0x42#8] }) =
    .ok (.reservedD) := rfl

theorem test_word_reserved_E : decode (.op 0b1110#4 { byte0 := 0x05#8, byte1 := 0x10#8, seq := [0x41#8, 0x42#8] }) =
    .ok (.reservedE) := rfl

theorem test_word_reserved_F : decode (.op 0b1111#4 { byte0 := 0x05#8, byte1 := 0x10#8, seq := [0x41#8, 0x42#8] }) =
    .ok (.reservedF) := rfl

theorem test_word_start : decode (.byte 0b00000010#8) = .ok (.startByte) := rfl

theorem test_word_end : decode (.byte 0b00000011#8) = .ok (.endByte) := rfl

theorem test_word_escape : decode (.byte 0b00011011#8) = .ok (.escapeByte) := rfl

theorem test_word_data : decode (.byte 0b00000100#8) = .ok (.dataByte 0x04#8) := rfl

theorem test_word_frame_start : decode (.field .start 0b00000010#8 []) = .ok .frameStart := rfl

theorem test_word_frame_start_other :
    decode (.field .start 0b00000011#8 []) = .error (.delimiterWord .start 0x03#8) := rfl

theorem test_word_frame_addr : decode (.field .addr 0b00000010#8 []) = .ok (.frameAddr 0x02#8) := rfl

theorem test_word_frame_cmd : decode (.field .cmd 0b00010000#8 []) = .ok (.frameCmd 0x10#8) := rfl

theorem test_word_frame_stuffed_payload :
    decode (.field .stuffedPayload 0x00#8 [0x02#8, 0x41#8]) = .ok (.frameStuffedPayload [0x02#8, 0x41#8]) := rfl

theorem test_word_frame_checksum : decode (.field .checksum 0b00110001#8 []) = .ok .frameChecksum := rfl

theorem test_word_frame_end : decode (.field .endField 0b00000011#8 []) = .ok .frameEnd := rfl

theorem test_word_frame_end_other :
    decode (.field .endField 0b00000010#8 []) = .error (.delimiterWord .endField 0x02#8) := rfl

/-- 30_encoding.md R76: `0110` once per byte. -/
theorem test_word_burst : decodeAll [.op 0b0110#4 { byte0 := 0x02#8 }, .op 0b0110#4 { byte0 := 0x05#8 }] =
    .ok [.bufWrite 0x02#8, .bufWrite 0x05#8] := rfl

theorem test_table_word_extract : decodeTableWord 8 0x8 = some .extract := rfl

theorem test_table_word_escape : decodeTableWord 8 0x1B = some .escapeByte := rfl

/-! ### One operation each (95_test_vectors.md) -/

/-- K-11. -/
theorem test_crc8_check_value :
    after (exec (.crc8 [0x31#8, 0x32#8, 0x33#8, 0x34#8, 0x35#8, 0x36#8, 0x37#8, 0x38#8, 0x39#8]) (holding 4 [])) State.result =
      some (.byte 0xF4#8) := by decide +kernel

/-- K-6. -/
theorem test_crc8_top_bit :
    after (exec (.crc8 [0x80#8]) (holding 4 [])) State.result = some (.byte 0x89#8) := by decide

/-- S-8. -/
theorem test_stuff_reserved :
    after (exec (.stuff [0xDE#8, 0xAD#8, 0x02#8, 0x03#8, 0x1B#8]) (holding 4 [])) State.result =
      some (.bytes [0xDE#8, 0xAD#8, 0x1B#8, 0x02#8, 0x1B#8, 0x03#8, 0x1B#8, 0x1B#8]) := by decide

/-- S-9. -/
theorem test_stuff_neighbours :
    after (exec (.stuff [0x00#8, 0x01#8, 0x04#8, 0x1A#8, 0x1C#8, 0xFF#8]) (holding 4 [])) State.result =
      some (.bytes [0x00#8, 0x01#8, 0x04#8, 0x1A#8, 0x1C#8, 0xFF#8]) := by decide

/-- U-9. -/
theorem test_unstuff_dangling :
    after (exec (.unstuff [0x1B#8, 0x1B#8, 0x1B#8]) (holding 4 [])) State.result = some (.bytes [0x1B#8]) := by decide

/-- U-3. -/
theorem test_unstuff_delimiters :
    after (exec (.unstuff [0x02#8, 0x03#8]) (holding 4 [])) State.result = some (.bytes [0x02#8, 0x03#8]) := by decide

/-- B-7. -/
theorem test_build_reserved_addr :
    after (exec (.build 0x02#8 0x03#8 [0x1B#8]) (holding 4 [])) State.result =
      some (.bytes [0x02#8, 0x02#8, 0x03#8, 0x1B#8, 0x1B#8, 0xA8#8, 0x03#8]) := by decide +kernel

/-- B-13. -/
theorem test_build_bare_checksum :
    after (exec (.build 0x00#8 0xB5#8 []) (holding 4 [])) State.result =
      some (.bytes [0x02#8, 0x00#8, 0xB5#8, 0x02#8, 0x03#8]) := by decide +kernel

/-- V-28. -/
theorem test_verify_dangling :
    after (exec (.verify [0x02#8, 0x05#8, 0x10#8, 0x1B#8, 0x31#8, 0x03#8]) (holding 4 [])) State.result =
      some (.bit true) := by decide +kernel

/-- V-4. -/
theorem test_verify_short :
    after (exec (.verify [0x02#8, 0x05#8, 0x10#8, 0x03#8]) (holding 4 [])) State.result =
      some (.bit false) := by decide

/-- M-1, the fifth write. -/
theorem test_buf_write_evicts :
    after (exec (.bufWrite 0x14#8) (holding 4 [0x10#8, 0x11#8, 0x12#8, 0x13#8])) State.buf =
      some ([0x11#8, 0x12#8, 0x13#8, 0x14#8]) := by decide

/-- M-1, the ring after the fifth write. -/
theorem test_buf_write_ring :
    after (exec (.bufWrite 0x14#8) (holding 4 [0x10#8, 0x11#8, 0x12#8, 0x13#8])) State.ring =
      some ({ mem := [(0, 0x14#8), (1, 0x11#8), (2, 0x12#8), (3, 0x13#8)], head := 1, count := 4 }) := by decide

/-- M-1, the first read. -/
theorem test_buf_read :
    after (exec (.bufRead) (holding 4 [0x10#8, 0x11#8, 0x12#8, 0x13#8, 0x14#8, 0x15#8])) State.result =
      some (.bytes [0x12#8, 0x13#8, 0x14#8, 0x15#8]) := by decide

/-- M-1. -/
theorem test_buf_read_empties :
    after (exec (.bufRead) (holding 4 [0x10#8, 0x11#8, 0x12#8, 0x13#8, 0x14#8, 0x15#8])) State.buf =
      some ([]) := by decide

/-- M-5, the three writes as one burst. -/
theorem test_burst :
    after (exec (.bufWriteBurst [0x02#8, 0x03#8, 0x1B#8]) (holding 2 [])) State.buf =
      some ([0x03#8, 0x1B#8]) := by decide

/-- X-21. -/
theorem test_extract_second_candidate :
    after (exec (.extract) (holding 15 [0x02#8, 0x05#8, 0x10#8, 0x41#8, 0x42#8, 0x43#8, 0xD9#8, 0x03#8, 0x02#8, 0x07#8, 0x20#8, 0x11#8, 0x22#8, 0x8D#8, 0x03#8])) State.result =
      some (.bytes [0x02#8, 0x07#8, 0x20#8, 0x11#8, 0x22#8, 0x8D#8, 0x03#8]) := by decide +kernel

/-- X-9. -/
theorem test_extract_escaped_delimiter :
    after (exec (.extract) (holding 8 [0x02#8, 0x05#8, 0x10#8, 0x1B#8, 0x02#8, 0x99#8, 0x03#8])) State.result =
      some (.bytes []) := by decide

/-- 46_reset_op.md R180. -/
theorem test_reset_keeps_capacity :
    after (exec (.reset) (holding 4 [0x02#8, 0x05#8, 0x10#8])) (fun s => (s.N, s.buf, s.ring.count)) =
      some ((4, [], 0)) := by decide

/-! ### One byte or field each -/

/-- Scenario C, i = 1. -/
theorem test_start_abandons :
    after (exec (.startByte) (scanningAt .inFrame [0x02#8, 0xAA#8] [0x02#8, 0xAA#8, 0x02#8] 2)) (fun s => (s.work.acc, s.work.state)) =
      some (([0x02#8], .inFrame)) := by decide

/-- Scenario B, i = 11. -/
theorem test_end_delivers :
    after (exec (.endByte) (scanningAt .inFrame [0x02#8, 0x05#8, 0x10#8, 0x41#8, 0x42#8, 0x43#8, 0xD8#8] [0x02#8, 0x05#8, 0x10#8, 0x41#8, 0x42#8, 0x43#8, 0xD8#8, 0x03#8] 7)) State.result =
      some (.bytes [0x02#8, 0x05#8, 0x10#8, 0x41#8, 0x42#8, 0x43#8, 0xD8#8, 0x03#8]) := by decide +kernel

/-- X-20, the candidate `02 03`. -/
theorem test_end_rejects :
    after (exec (.endByte) (scanningAt .inFrame [0x02#8] [0x02#8, 0x03#8] 1)) (fun s => (s.work.acc, s.work.state)) =
      some (([], .idle)) := by decide

/-- X-8. -/
theorem test_escape_is_appended :
    after (exec (.escapeByte) (scanningAt .inFrame [0x02#8, 0x05#8, 0x10#8] [0x02#8, 0x05#8, 0x10#8, 0x1B#8] 3)) (fun s => s.work.acc) =
      some ([0x02#8, 0x05#8, 0x10#8, 0x1B#8]) := by decide

/-- Scenario B, i = 0. -/
theorem test_data_is_noise :
    after (exec (.dataByte 0xAA#8) (scanningAt .idle [] [0xAA#8] 0)) (fun s => (s.work.acc, s.work.state, s.work.i)) =
      some (([], .idle, 1)) := by decide

/-- Scenario B, i = 5. -/
theorem test_data_is_appended :
    after (exec (.dataByte 0x05#8) (scanningAt .inFrame [0x02#8] [0x02#8, 0x05#8] 1)) (fun s => s.work.acc) =
      some ([0x02#8, 0x05#8]) := by decide

/-- 30_encoding.md R60. -/
theorem test_frame_start :
    after (exec (.frameStart) (holding 16 [])) (fun s => (s.work.out, s.work.crc)) =
      some (([0x02#8], 0x00#8)) := by decide

/-- KT-3: the accumulator after 05. -/
theorem test_frame_addr :
    after (exec (.frameAddr 0x05#8) (buildingAt .addr 0x00#8 [0x02#8])) (fun s => (s.work.out, s.work.crc)) =
      some (([0x02#8, 0x05#8], 0x1B#8)) := by decide

/-- KT-3: the accumulator after 10. -/
theorem test_frame_cmd :
    after (exec (.frameCmd 0x10#8) (buildingAt .cmd 0x1B#8 [0x02#8, 0x05#8])) (fun s => (s.work.out, s.work.crc)) =
      some (([0x02#8, 0x05#8, 0x10#8], 0x31#8)) := by decide

/-- B-10: the raw byte is fed, the escaped pair is emitted. -/
theorem test_frame_stuffed_payload :
    after (exec (.frameStuffedPayload [0x02#8]) (buildingAt .stuffedPayload 0x31#8 [0x02#8, 0x05#8, 0x10#8])) (fun s => (s.work.out, s.work.crc)) =
      some (([0x02#8, 0x05#8, 0x10#8, 0x1B#8, 0x02#8], 0x99#8)) := by decide

/-- B-2. -/
theorem test_frame_checksum :
    after (exec (.frameChecksum) (buildingAt .checksum 0x31#8 [0x02#8, 0x05#8, 0x10#8])) (fun s => s.work.out) =
      some ([0x02#8, 0x05#8, 0x10#8, 0x31#8]) := by decide

/-- B-2. -/
theorem test_frame_end :
    after (exec (.frameEnd) (buildingAt .endField 0x31#8 [0x02#8, 0x05#8, 0x10#8, 0x31#8])) State.result =
      some (.bytes [0x02#8, 0x05#8, 0x10#8, 0x31#8, 0x03#8]) := by decide

/-- 30_encoding.md R75. -/
theorem test_reserved_refuses : exec .reserved9 (holding 4 []) = .refused (.reservedOpSel 0x9#4) := rfl

/-- A table word stored in the reset state runs as the next step. -/
theorem test_step_from_reset :
    after (step (State.reset.withFetchWord 8 0x7)) State.result = some (.bytes []) := by decide

/-- 30_encoding.md R74. -/
theorem test_step_takes_the_request :
    after (step (holding 4 [0x10#8, 0x11#8] [.op 0b0111#4 {}, .op 0b0000#4 {}])) (fun s => (s.result, s.pending)) =
      some ((.bytes [0x10#8, 0x11#8], [.op 0b0000#4 {}])) := by decide

/-! ### Witnesses -/

/-- The only hypothesis of ResetEmptiesTheBuffer, BufReadReturnsAndEmpties, Crc8DeliversTheFold,
Crc8FeedsBitsMostSignificantFirst, StuffDeliversTheStuffedPayload, UnstuffUndoesStuff, BuildDeliversTheFrame,
BuiltFramesVerify, FrameFieldsEmitTheirBytes, VerifyDeliversTheClosedForm, VerifyAcceptsNonCanonicalPayloads,
ExtractEmptiesTheBuffer, ExtractDeliversTheScan, ExtractIsAllOrNothing and
ExtractDeliversTheFirstVerifiedCandidate, at its boundary. -/
theorem witness_capacity_at_least_one : 1 ≤ (holding 1 []).N := by decide

theorem witness_DecodedProgramIsTheEncodedOne :
    ∀ i ∈ [Instr.build 0x02#8 0x03#8 [0x1B#8], .bufWriteBurst [0x02#8, 0x03#8], .dataByte 0x04#8, .endByte,
    .frameAddr 0x02#8, .extract], WellFormed i = true := by decide

theorem witness_EncodedRowKeepsItsWord : decodeField .start 0x02#8 [0x41#8] = .ok .frameStart := rfl

theorem witness_StepPerformsTheDecodedRow_op :
    (holding 4 [] [.op 0x7#4 {}]).pending = [.op 0x7#4 {}] ∧ (holding 4 [] [.op 0x7#4 {}]).phase = .ready ∧
    decode (.op 0x7#4 {}) = .ok .bufRead := ⟨rfl, rfl, rfl⟩

theorem witness_StepPerformsTheDecodedRow_field :
    ({ buildingAt .cmd 0x1B#8 [0x02#8, 0x05#8] with pending := [.field .cmd 0x10#8 []] } : State).phase =
      FrameField.cmd.wanted ∧ (holding 4 []).phase = FrameField.start.wanted ∧
    decode (.field .cmd 0x10#8 []) = .ok (.frameCmd 0x10#8) := ⟨rfl, rfl, rfl⟩

theorem witness_StepPerformsTheDecodedRow_scan :
    (scanningAt .inFrame [0x02#8] [0x02#8, 0x05#8] 1).pending = [.scan] ∧ (scanningAt .inFrame [0x02#8] [0x02#8, 0x05#8] 1).phase = .scanning ∧
    (scanningAt .inFrame [0x02#8] [0x02#8, 0x05#8] 1).work.D[(scanningAt .inFrame [0x02#8] [0x02#8, 0x05#8] 1).work.i]? = some 0x05#8 ∧ decode (.byte 0x05#8) = .ok (.dataByte 0x05#8) := ⟨rfl, rfl, rfl, rfl⟩

theorem witness_StepPerformsTheDecodedRow_nothing : (holding 4 []).pending = [] := rfl

theorem witness_ZeroCapacityIsRefused : (holding 0 []).N = 0 ∧ WellFormed .extract = true := ⟨rfl, rfl⟩

theorem witness_OverlappingOperationIsRefused :
    ({ scanningAt .inFrame [0x02#8] [0x02#8, 0x05#8] 1 with pending := [.op 0x6#4 {}] } : State).phase ≠ .ready ∧
    ({ scanningAt .inFrame [0x02#8] [0x02#8, 0x05#8] 1 with pending := [.op 0x6#4 {}] } : State).pending = [.op 0x6#4 {}] := by decide

theorem witness_EveryOperationCompletes : isOperation .extract = true ∧ 1 ≤ (holding 1 []).N := by decide

theorem witness_PureOperationsDependOnTheirOperandsAlone :
    isPure (.verify []) = true ∧ 1 ≤ (holding 1 []).N ∧ 1 ≤ (holding 4 [0x02#8]).N := by decide

theorem witness_OnlyFourOperationsTouchTheBuffer_other :
    (∃ t, exec (.crc8 []) (holding 4 []) = .next t) ∧ touchesBuffer (.crc8 []) = false := ⟨⟨_, rfl⟩, rfl⟩

theorem witness_OnlyFourOperationsTouchTheBuffer_drain :
    (∃ t, exec .bufRead (holding 4 [0x10#8]) = .next t) ∧ (∃ t, exec .extract (holding 4 [0x10#8]) = .next t) ∧
    ∃ t, exec .reset (holding 4 [0x10#8]) = .next t := ⟨⟨_, rfl⟩, ⟨_, rfl⟩, ⟨_, rfl⟩⟩

theorem witness_OnlyFourOperationsTouchTheBuffer_write :
    (∃ t, exec (.bufWrite 0x14#8) (holding 2 [0x10#8]) = .next t) ∧
    (∃ t, exec (.bufWrite 0x14#8) (holding 2 [0x10#8, 0x11#8]) = .next t) ∧
    (holding 2 [0x10#8]).buf.length < 2 ∧ (holding 2 [0x10#8, 0x11#8]).buf.length = 2 := ⟨⟨_, rfl⟩, ⟨_, rfl⟩, by decide, by decide⟩

theorem witness_NoOperationReadsALeftoverRegister : isOperation (.unstuff [0x41#8]) = true ∧
    (holding 16 [] [.scan]).sameStore (scanningAt .inFrame [0x02#8] [0x02#8, 0x05#8] 1) ∧
    ∃ t, exec (.unstuff [0x41#8]) (holding 16 [] [.scan]) = .next t := ⟨rfl, ⟨rfl, rfl, rfl, rfl⟩, ⟨_, rfl⟩⟩

theorem witness_EveryStepKeepsTheInvariant : (holding 2 [0x10#8, 0x11#8] [.op 0x6#4 { byte0 := 0x12#8 }]).Inv ∧
    ∃ t, step (holding 2 [0x10#8, 0x11#8] [.op 0x6#4 { byte0 := 0x12#8 }]) = .next t := ⟨by decide, ⟨_, rfl⟩⟩

theorem witness_BufWriteEvictsThenAppends :
    1 ≤ (holding 2 [0x10#8]).N ∧ (holding 2 [0x10#8]).buf.length < (holding 2 [0x10#8]).N ∧
    (holding 2 [0x10#8, 0x11#8]).buf.length = (holding 2 [0x10#8, 0x11#8]).N := by decide

theorem witness_BufWriteStoresInOneCell :
    1 ≤ (holding 2 [0x10#8]).N ∧ (holding 2 [0x10#8]).ring.mem.wf ∧ (holding 2 [0x10#8]).ring.count = 1 ∧
    (holding 2 [0x10#8, 0x11#8]).ring.mem.wf ∧ (holding 2 [0x10#8, 0x11#8]).ring.count = (holding 2 [0x10#8, 0x11#8]).N := by decide

theorem witness_RingRealisesTheBuffer : (holding 2 [0x10#8, 0x11#8, 0x12#8]).ring.wf 2 ∧
    (holding 2 [0x10#8, 0x11#8, 0x12#8]).ring.toSeq 2 = (holding 2 [0x10#8, 0x11#8, 0x12#8]).buf ∧
    (∃ t, exec (.bufWrite 0x13#8) (holding 2 [0x10#8, 0x11#8, 0x12#8]) = .next t) ∧
    (∃ t, exec .bufRead (holding 2 [0x10#8, 0x11#8, 0x12#8]) = .next t) ∧
    ∃ t, exec .reset (holding 2 [0x10#8, 0x11#8, 0x12#8]) = .next t := ⟨by decide, by decide, ⟨_, rfl⟩, ⟨_, rfl⟩, ⟨_, rfl⟩⟩

theorem witness_BurstLeavesTheLastBytes :
    1 ≤ (holding 2 [0x10#8, 0x11#8]).N ∧ (holding 2 [0x10#8, 0x11#8]).buf.length = (holding 2 [0x10#8, 0x11#8]).N := by decide

/-- The hypotheses of BurstIsItsWrites, FieldByFieldBuildGivesTheFrame and ByteSerialExtractRefinesExtract. -/
theorem witness_ready : 1 ≤ (holding 2 [0x10#8]).N ∧ (holding 2 [0x10#8]).phase = .ready := by decide

theorem witness_SecondDrainFindsNothing :
    ∃ t u, exec .bufRead (holding 4 [0x10#8]) = .next t ∧ exec .extract t = .next u := ⟨_, _, rfl, rfl⟩

theorem witness_CrcIsIncrementalAndLinear : [0x12#8, 0x34#8].length = [0x34#8, 0x12#8].length := rfl

/-- Both sides occur: from `01 07` the error that gives `00 00` is `G(x)` itself, the one that gives `00 01` is no multiple. -/
theorem witness_UndetectedErrorIsAMultipleOfTheGenerator :
    ([0x00#8] : Seq).length = ([0x01#8] : Seq).length ∧ crc8 [0x00#8] = 0x00#8 ∧ crc8 [0x00#8] ≠ 0x01#8 := by decide

theorem witness_UnstuffDeliversTheUnstuffedPayload : 1 ≤ (holding 1 []).N ∧ (0x02#8 : Byte) ≠ 0x1B#8 := by decide

theorem witness_DanglingEscapeIsDropped :
    1 ≤ (holding 1 []).N ∧ danglingEscape [] = false ∧ danglingEscape [0x1B#8, 0x1B#8] = false ∧
    danglingEscape [0x1B#8] = true := by decide

theorem witness_BuildIsInjective : build 0x05#8 0x10#8 [0x02#8] = build 0x05#8 0x10#8 [0x02#8] := rfl

/-- Both delimiters and the payload byte whose flip creates an escape (V-36). -/
theorem witness_SingleBitFlipIsRejected : 1 ≤ (holding 1 []).N ∧ 0 < (build 0x05#8 0x10#8 [0x1A#8, 0x44#8]).length ∧
    3 < (build 0x05#8 0x10#8 [0x1A#8, 0x44#8]).length ∧ 6 < (build 0x05#8 0x10#8 [0x1A#8, 0x44#8]).length ∧ 7 < 8 := by decide

theorem witness_FrameSurvivesExactlyWithoutInnerDelimiters_kept :
    (holding 5 []).buf = [] ∧ (build 0x05#8 0x10#8 []).length = (holding 5 []).N ∧
    ∀ b ∈ interior (build 0x05#8 0x10#8 []), isDelimiter b = false := by decide +kernel

theorem witness_FrameSurvivesExactlyWithoutInnerDelimiters_lost :
    (holding 7 []).buf = [] ∧ (build 0x05#8 0x10#8 [0x02#8]).length ≤ (holding 7 []).N ∧
    ¬ ∀ b ∈ interior (build 0x05#8 0x10#8 [0x02#8]), isDelimiter b = false := by decide +kernel

/-- The noise ends inside an open candidate. -/
theorem witness_FrameIsFoundBetweenNoise :
    1 ≤ (holding 16 ([0x03#8, 0x02#8, 0xAA#8] ++ build 0x05#8 0x10#8 [] ++ [0x99#8])).N ∧
    (∀ b ∈ interior (build 0x05#8 0x10#8 []), isDelimiter b = false) ∧ scan [0x03#8, 0x02#8, 0xAA#8] = [] ∧
    (holding 16 ([0x03#8, 0x02#8, 0xAA#8] ++ build 0x05#8 0x10#8 [] ++ [0x99#8])).buf =
      [0x03#8, 0x02#8, 0xAA#8] ++ build 0x05#8 0x10#8 [] ++ [0x99#8] := by decide +kernel

theorem witness_FrameLongerThanTheBufferIsLost : 1 ≤ (holding 4 []).N ∧ (holding 4 []).buf.length ≤ (holding 4 []).N ∧
    (holding 4 []).N + 1 = (build 0x05#8 0x10#8 []).length := by decide +kernel

theorem witness_ScanTransitionsFollowTheByteClass :
    1 ≤ (scanningAt .idle [] [0x03#8] 0).N ∧ (scanningAt .idle [] [0x03#8] 0).work.state = .idle ∧
    (scanningAt .inFrame [0x02#8] [0x02#8, 0x03#8] 1).work.state = .inFrame ∧
    verify ([0x02#8, 0x05#8, 0x10#8, 0x31#8] ++ [0x03#8]) = true ∧ verify ([0x02#8] ++ [0x03#8]) = false := by decide +kernel

theorem witness_ScanStartsIdleAndEndsEmpty_start :
    1 ≤ (holding 2 [0x10#8] [.scanStart]).N ∧ (holding 2 [0x10#8] [.scanStart]).pending = [.scanStart] ∧
    (holding 2 [0x10#8] [.scanStart]).phase = .ready := by decide

theorem witness_ScanStartsIdleAndEndsEmpty_end :
    1 ≤ (scanningAt .inFrame [0x02#8] [0x02#8] 1).N ∧ (scanningAt .inFrame [0x02#8] [0x02#8] 1).pending = [.scan] ∧ (scanningAt .inFrame [0x02#8] [0x02#8] 1).phase = .scanning ∧
    (scanningAt .inFrame [0x02#8] [0x02#8] 1).work.D.length = (scanningAt .inFrame [0x02#8] [0x02#8] 1).work.i := by decide

end Sys2Proof.Tests
end

section
/-! PROOFS of the family 10_state.md: a pure operation is the delivery of a result fixed by its operands. -/

namespace Sys2Proof.Machine

/-- The end of an operation touches no store (10_state.md R32). -/
theorem State.sameStore_deliver (s : State) (r : Result) : s.sameStore (s.deliver r) :=
  ⟨rfl, rfl, rfl, rfl⟩

/-- A pure row names its result before it sees the state, and delivering that result is all it does. -/
theorem exec_pure {i : Instr} (h : isPure i = true) : ∃ r, ∀ s, exec i s = s.operate (·.deliver r) := by
  cases i with
  | crc8 m => exact ⟨.byte (crc8 m), fun s => exec_crc8 s m⟩
  | stuff p => exact ⟨.bytes (stuff p), fun s => exec_stuff s p⟩
  | unstuff sq => exact ⟨.bytes (unstuff sq), fun s => exec_unstuff s sq⟩
  | build addr cmd p => exact ⟨.bytes (build addr cmd p), fun s => exec_build s addr cmd p⟩
  | verify f => exact ⟨.bit (verify f), fun s => exec_verify s f⟩
  | _ => cases h

/-- Settles O11: both runs deliver the one result that `exec_pure` fixes by the operands, and a delivery
touches no store. -/
theorem pureOperationsDependOnTheirOperandsAlone : Obligations.PureOperationsDependOnTheirOperandsAlone := by
  intro i s s' hpure hN hN'
  obtain ⟨r, hexec⟩ := exec_pure hpure
  refine ⟨s.deliver r, s'.deliver r, ?_, ?_, rfl, s.sameStore_deliver r, s'.sameStore_deliver r⟩
  · rw [hexec, State.operate_of_pos hN]
  · rw [hexec, State.operate_of_pos hN']

end Sys2Proof.Machine
end

section
/-! PROOFS of the family 20_memory.md: what one write makes of the buffer. -/

namespace Sys2Proof.Machine

/-- A write to a full buffer first gives up one byte, so a buffer within its capacity stays there
(20_memory.md R41). -/
theorem length_bufAfterWrite {cap : Nat} {buf : Seq} (b : Byte) (hcap : 1 ≤ cap) (hlen : buf.length ≤ cap) :
    (bufAfterWrite cap buf b).length = min (buf.length + 1) cap := by
  unfold bufAfterWrite
  split
  case isTrue hfull =>
    rw [List.length_append, List.length_tail, List.length_singleton]
    omega
  case isFalse hroom =>
    rw [List.length_append, List.length_singleton]
    omega

/-- The byte written is the newest one held (20_memory.md R41). -/
theorem getLast?_bufAfterWrite (cap : Nat) (buf : Seq) (b : Byte) :
    (bufAfterWrite cap buf b).getLast? = some b :=
  List.getLast?_concat

/-- On a capacity of at least 1, BUF_WRITE always completes. -/
theorem exec_bufWrite_of_pos {s : State} (b : Byte) (hN : 1 ≤ s.N) :
    exec (.bufWrite b) s = .next ((s.writeByte b).deliver .none) := by
  rw [exec_bufWrite, State.operate_of_pos hN]

/-- Settles O18: BUF_WRITE delivers no result after one write, and the length and the newest byte are those of
`bufAfterWrite`. -/
theorem bufWriteEvictsThenAppends : Obligations.BufWriteEvictsThenAppends := fun b s hN =>
  ⟨(s.writeByte b).deliver .none, exec_bufWrite_of_pos b hN, rfl, rfl,
    length_bufAfterWrite b hN, getLast?_bufAfterWrite s.N s.buf b, rfl, rfl⟩

end Sys2Proof.Machine
end

section
/-! PROOFS of the family 30_encoding.md: the class of a byte and the row the byte decodes to. -/

namespace Sys2Proof

/-- What the class of a byte can be: a reserved value has the class named after it, every other value is data
(30_encoding.md R65). -/
theorem byteClass_cases (b : Byte) :
    (b = Config.START ∧ byteClass b = .start) ∨ (b = Config.END ∧ byteClass b = .endDelim) ∨
      (b = Config.ESCAPE ∧ byteClass b = .escape) ∨
      ((b ≠ Config.START ∧ b ≠ Config.END ∧ b ≠ Config.ESCAPE) ∧ byteClass b = .data) := by
  unfold byteClass
  split_ifs with hStart hEnd hEscape
  · exact .inl ⟨hStart, rfl⟩
  · exact .inr (.inl ⟨hEnd, rfl⟩)
  · exact .inr (.inr (.inl ⟨hEscape, rfl⟩))
  · exact .inr (.inr (.inr ⟨⟨hStart, hEnd, hEscape⟩, rfl⟩))

/-- A data byte decodes to the row that carries it (30_encoding.md R65). -/
theorem decode_byte_of_data {b : Byte} (h : byteClass b = .data) : decode (.byte b) = .ok (.dataByte b) := by
  rw [decode, decodeByte, h]

/-- Settles O2: along `byteClass_cases`, where each reserved value is one closed case. -/
theorem byteClassesAreTheFourOfTheTable : Obligations.ByteClassesAreTheFourOfTheTable := by
  intro b
  obtain ⟨rfl, -⟩ | ⟨rfl, -⟩ | ⟨rfl, -⟩ | ⟨⟨hStart, hEnd, hEscape⟩, hData⟩ := byteClass_cases b
  · exact ⟨by decide, by decide, by decide, by decide, rfl⟩
  · exact ⟨by decide, by decide, by decide, by decide, rfl⟩
  · exact ⟨by decide, by decide, by decide, by decide, rfl⟩
  · simp only [Config.START, Config.END, Config.ESCAPE] at hStart hEnd hEscape
    simp [hData, decode_byte_of_data hData, hStart, hEnd, hEscape]

end Sys2Proof
end

section
/-! PROOFS of the family 40_crc8.md: `crc8` as a left fold, and its delivery by CRC8. -/

namespace Sys2Proof.Machine

/-- The final XOR with `CRC_XOROUT` changes nothing (40_crc8.md R90). -/
theorem crc8_eq_foldl (m : Seq) : crc8 m = m.foldl crcByte Config.CRC_INIT :=
  BitVec.xor_zero

/-- The checksum continues from the checksum of the bytes before (40_crc8.md R90). -/
theorem crc8_append (u v : Seq) : crc8 (u ++ v) = v.foldl crcByte (crc8 u) := by
  rw [crc8_eq_foldl, crc8_eq_foldl, List.foldl_append]

/-- On a capacity of at least 1, CRC8 always completes. -/
theorem exec_crc8_of_pos {s : State} (m : Seq) (hN : 1 ≤ s.N) :
    exec (.crc8 m) s = .next (s.deliver (.byte (crc8 m))) := by
  rw [exec_crc8, State.operate_of_pos hN]

/-- Settles O25: CRC8 delivers `crc8 m`, which is the fold by `crc8_eq_foldl`; a delivery touches no store, and
the recurrence is `crc8_append` at one byte. -/
theorem crc8DeliversTheFold : Obligations.Crc8DeliversTheFold := by
  refine ⟨fun m s hN => ?_, crc8_eq_foldl [], fun m b => crc8_append m [b]⟩
  exact ⟨s.deliver (.byte (crc8 m)), exec_crc8_of_pos m hN, congrArg Result.byte (crc8_eq_foldl m), rfl,
    s.sameStore_deliver _⟩

end Sys2Proof.Machine
end

section
/-! PROOFS of the family 41_stuffing.md: the equations of `stuff` and `unstuff`, what each makes of a concatenation,
and their delivery by STUFF and UNSTUFF. -/

namespace Sys2Proof.Machine

/-- The reserved bytes are the three of 41_stuffing.md R101. -/
theorem isReserved_iff (b : Byte) :
    isReserved b = true ↔ b = Config.START ∨ b = Config.END ∨ b = Config.ESCAPE := by
  obtain ⟨rfl, -⟩ | ⟨rfl, -⟩ | ⟨rfl, -⟩ | ⟨⟨hStart, hEnd, hEscape⟩, hData⟩ := byteClass_cases b
  · decide
  · decide
  · decide
  · simp [isReserved, hData, hStart, hEnd, hEscape]

theorem stuffOne_of_reserved {b : Byte} (h : isReserved b = true) : stuffOne b = [Config.ESCAPE, b] :=
  if_pos h

theorem stuffOne_of_not_reserved {b : Byte} (h : isReserved b = false) : stuffOne b = [b] :=
  if_neg (by simp [h])

/-- The stuffer emits one byte, and one more for a reserved byte (41_stuffing.md R101). -/
theorem length_stuffOne (b : Byte) : (stuffOne b).length = 1 + if isReserved b then 1 else 0 := by
  cases hb : isReserved b
  case false => rw [stuffOne_of_not_reserved hb]; rfl
  case true => rw [stuffOne_of_reserved hb]; rfl

/-- Stuffing adds one byte per reserved byte (41_stuffing.md R102). -/
theorem length_stuff (p : Seq) : (stuff p).length = p.length + p.countP isReserved := by
  induction p with
  | nil => rfl
  | cons b q ih =>
    rw [stuff, List.length_append, length_stuffOne, ih, List.length_cons, List.countP_cons]
    omega

/-- A payload without reserved bytes is not changed (41_stuffing.md R102). -/
theorem stuff_eq_self {p : Seq} (h : ∀ b ∈ p, isReserved b = false) : stuff p = p := by
  induction p with
  | nil => rfl
  | cons b q ih =>
    obtain ⟨hb, hq⟩ := List.forall_mem_cons.1 h
    rw [stuff, stuffOne_of_not_reserved hb, ih hq, List.singleton_append]

/-- An escape makes exactly the next byte literal (41_stuffing.md R105). -/
theorem unstuff_escape_cons (x : Byte) (r : Seq) : unstuff (Config.ESCAPE :: x :: r) = x :: unstuff r :=
  if_pos rfl

/-- A byte other than the escape is emitted as it is (41_stuffing.md R105). -/
theorem unstuff_cons_of_ne {b : Byte} (h : b ≠ Config.ESCAPE) (r : Seq) : unstuff (b :: r) = b :: unstuff r := by
  cases r with
  | nil => exact if_neg h
  | cons x t => exact if_neg h

/-- The unstuffer reads what the stuffer emitted for one byte as that byte. -/
theorem unstuff_stuffOne_append (b : Byte) (r : Seq) : unstuff (stuffOne b ++ r) = b :: unstuff r := by
  cases hb : isReserved b
  case false =>
    have hne : b ≠ Config.ESCAPE := by
      rintro rfl
      exact absurd hb (by decide)
    rw [stuffOne_of_not_reserved hb, List.singleton_append, unstuff_cons_of_ne hne]
  case true =>
    rw [stuffOne_of_reserved hb]
    exact unstuff_escape_cons b r

/-- Unstuffing undoes stuffing (41_stuffing.md R107). -/
theorem unstuff_stuff (p : Seq) : unstuff (stuff p) = p := by
  induction p with
  | nil => rfl
  | cons b q ih => rw [stuff, unstuff_stuffOne_append, ih]

/-- After a sequence that leaves no escape pending, the unstuffer goes on as from its start (41_stuffing.md R105,
R106). -/
theorem unstuff_append_of_not_dangling {u : Seq} (h : danglingEscape u = false) (v : Seq) :
    unstuff (u ++ v) = unstuff u ++ unstuff v := by
  induction u using danglingEscape.induct with
  | case1 => rfl
  | case2 b =>
    have hb : b ≠ Config.ESCAPE := by simpa [danglingEscape] using h
    rw [List.singleton_append, unstuff_cons_of_ne hb, unstuff_cons_of_ne hb]
    rfl
  | case3 x t ih =>
    have ht : danglingEscape t = false := by simpa [danglingEscape] using h
    rw [List.cons_append, List.cons_append, unstuff_escape_cons, unstuff_escape_cons, ih ht, List.cons_append]
  | case4 b x t hb ih =>
    have ht : danglingEscape (x :: t) = false := by simpa [danglingEscape, hb] using h
    rw [List.cons_append, unstuff_cons_of_ne hb, unstuff_cons_of_ne hb, ih ht, List.cons_append]

/-- On a capacity of at least 1, STUFF always completes. -/
theorem exec_stuff_of_pos {s : State} (p : Seq) (hN : 1 ≤ s.N) :
    exec (.stuff p) s = .next (s.deliver (.bytes (stuff p))) := by
  rw [exec_stuff, State.operate_of_pos hN]

/-- On a capacity of at least 1, UNSTUFF always completes. -/
theorem exec_unstuff_of_pos {s : State} (sq : Seq) (hN : 1 ≤ s.N) :
    exec (.unstuff sq) s = .next (s.deliver (.bytes (unstuff sq))) := by
  rw [exec_unstuff, State.operate_of_pos hN]

/-- Settles O32: STUFF delivers `stuff p`, the concatenation of `stuffOne`, whose test `isReserved_iff` spells out;
a delivery touches no store. -/
theorem stuffDeliversTheStuffedPayload : Obligations.StuffDeliversTheStuffedPayload := by
  intro p s hN
  refine ⟨s.deliver (.bytes (stuff p)), exec_stuff_of_pos p hN, congrArg Result.bytes ?_, rfl,
    s.sameStore_deliver _⟩
  rw [stuff_eq_flatMap]
  exact List.flatMap_congr fun b _ => if_congr (isReserved_iff b) rfl rfl

/-- Settles O33: by `length_stuff` each bound is one on the number of reserved bytes of `p`, which lies between 0
and `p.length`. -/
theorem stuffLengthLaw : Obligations.StuffLengthLaw := by
  intro p
  have hlen := length_stuff p
  have hcount : p.countP isReserved ≤ p.length := List.countP_le_length
  have hnone : p.countP isReserved = 0 ↔ ∀ b ∈ p, isReserved b = false := by simp [List.countP_eq_zero]
  have hall : p.countP isReserved = p.length ↔ ∀ b ∈ p, isReserved b = true := List.countP_eq_length
  refine ⟨hlen, by omega, by omega, ?_, stuff_eq_self, ?_⟩
  · rw [← hnone]; omega
  · rw [← hall]; omega

/-- Settles O34: UNSTUFF delivers `unstuff sq`, and the equations are those of `unstuff` at the escape and at any
other byte. -/
theorem unstuffDeliversTheUnstuffedPayload : Obligations.UnstuffDeliversTheUnstuffedPayload :=
  ⟨fun sq s hN => ⟨s.deliver (.bytes (unstuff sq)), exec_unstuff_of_pos sq hN, rfl, s.sameStore_deliver _⟩,
    rfl, rfl, unstuff_escape_cons, fun _ r hb => unstuff_cons_of_ne hb r⟩

/-- Settles O35: STUFF keeps the capacity, so UNSTUFF completes after it, and its result is that of
`unstuff_stuff`. -/
theorem unstuffUndoesStuff : Obligations.UnstuffUndoesStuff := by
  intro x s hN
  have hunstuff := exec_unstuff_of_pos (s := s.deliver (.bytes (stuff x))) (stuff x) hN
  rw [unstuff_stuff] at hunstuff
  exact ⟨stuff x, _, _, exec_stuff_of_pos x hN, rfl, hunstuff, rfl⟩

/-- Settles O36: with no escape pending the appended one is unstuffed as a sequence of its own, to nothing. -/
theorem danglingEscapeIsDropped : Obligations.DanglingEscapeIsDropped := by
  intro sq s hN hsq
  have hdrop : unstuff (sq ++ [Config.ESCAPE]) = unstuff sq := by
    rw [unstuff_append_of_not_dangling hsq]
    exact List.append_nil _
  exact ⟨_, _, exec_unstuff_of_pos _ hN, exec_unstuff_of_pos sq hN, congrArg Result.bytes hdrop⟩

end Sys2Proof.Machine
end

section
/-! PROOFS of the family 42_frame_builder.md: the delivery of the frame by BUILD. -/

namespace Sys2Proof.Machine

/-- On a capacity of at least 1, BUILD always completes. -/
theorem exec_build_of_pos {s : State} (addr cmd : Byte) (p : Seq) (hN : 1 ≤ s.N) :
    exec (.build addr cmd p) s = .next (s.deliver (.bytes (build addr cmd p))) := by
  rw [exec_build, State.operate_of_pos hN]

/-- Settles O38: BUILD delivers `build addr cmd p`, whose defining equation is the one of 42_frame_builder.md R116;
a delivery touches no store. -/
theorem buildDeliversTheFrame : Obligations.BuildDeliversTheFrame := fun addr cmd p s hN =>
  ⟨s.deliver (.bytes (build addr cmd p)), exec_build_of_pos addr cmd p hN, rfl, s.sameStore_deliver _⟩

end Sys2Proof.Machine
end

section
/-! PROOFS of the family 43_frame_verifier.md: the fields VERIFY reads, the bit it computes from them, and its
delivery. -/

namespace Sys2Proof.Machine

/-- `f[i .. j]` as a start and a number of bytes (00_scope.md R18). -/
theorem slice_eq_take_drop (sq : Seq) (i j : Nat) : slice sq i j = (sq.drop i).take (j + 1 - i) :=
  List.drop_take

/-- A byte in range does not depend on the default of `getD`. -/
theorem getElem?_eq_some_getD {f : Seq} {k : Nat} (d : Byte) (h : k < f.length) : f[k]? = some (f.getD k d) := by
  rw [List.getD_eq_getElem _ _ h, List.getElem?_eq_getElem h]

/-- Below 5 bytes there are no fields (43_frame_verifier.md R126). -/
theorem frameFields_of_short {f : Seq} (h : f.length < 5) : frameFields f = none :=
  if_pos h

/-- From 5 bytes on there are fields; the raw payload is what the three bytes before it and the two after it leave
(43_frame_verifier.md R127). -/
theorem frameFields_of_long {f : Seq} (h : 5 ≤ f.length) :
    frameFields f = some
      { startByte := f.getD 0 0#8
        addr := f.getD 1 0#8
        cmd := f.getD 2 0#8
        raw := (f.drop 3).take (f.length - 5)
        cs := f.getD (f.length - 2) 0#8
        endByte := f.getD (f.length - 1) 0#8 } := by
  have hcount : f.length - 5 = f.length - 3 + 1 - 3 := by omega
  rw [hcount, ← slice_eq_take_drop]
  exact if_neg (Nat.not_lt.2 h)

/-- The fields of a frame are defined from 5 bytes on, and each is what stands at its index, counted from one of the
two ends (30_encoding.md R68, 43_frame_verifier.md R130). -/
theorem frameFields_eq_some_iff {f : Seq} {x : Fields} :
    frameFields f = some x ↔
      5 ≤ f.length ∧ f[0]? = some x.startByte ∧ f[1]? = some x.addr ∧ f[2]? = some x.cmd ∧
        (f.drop 3).take (f.length - 5) = x.raw ∧ f[f.length - 2]? = some x.cs ∧
        f[f.length - 1]? = some x.endByte := by
  rcases Nat.lt_or_ge f.length 5 with hshort | hlong
  case inl => simp [frameFields_of_short hshort, Nat.not_le.2 hshort]
  case inr =>
    have hget (k : Nat) (hk : k < f.length) := getElem?_eq_some_getD 0#8 hk
    rw [frameFields_of_long hlong, hget 0 (by omega), hget 1 (by omega), hget 2 (by omega),
      hget (f.length - 2) (by omega), hget (f.length - 1) (by omega)]
    cases x
    simp [hlong]

/-- VERIFY accepts exactly when the fields exist and pass its three tests on them (43_frame_verifier.md R126 to
R128). -/
theorem verify_eq_true_iff {f : Seq} :
    verify f = true ↔ ∃ x, frameFields f = some x ∧ x.startByte = Config.START ∧ x.endByte = Config.END ∧
      crc8 ([x.addr, x.cmd] ++ unstuff x.raw) = x.cs := by
  unfold verify rejectCause
  cases frameFields f with
  | none => simp
  | some x =>
    by_cases hstart : x.startByte = Config.START
    case neg => simp [hstart]
    by_cases hend : x.endByte = Config.END
    case neg => simp [hstart, hend]
    simp [hstart, hend]

/-- The bit of VERIFY in closed form (43_frame_verifier.md R132). -/
theorem verify_eq_true_iff_getElem? {f : Seq} :
    verify f = true ↔ 5 ≤ f.length ∧ f[0]? = some 0x02#8 ∧ f[f.length - 1]? = some 0x03#8 ∧
      ∃ addr cmd cs, f[1]? = some addr ∧ f[2]? = some cmd ∧ f[f.length - 2]? = some cs ∧
        crc8 ([addr, cmd] ++ unstuff ((f.drop 3).take (f.length - 5))) = cs := by
  rw [verify_eq_true_iff]
  constructor
  · rintro ⟨⟨_, addr, cmd, _, cs, _⟩, hfields, rfl, rfl, hcrc⟩
    obtain ⟨hlen, hstart, haddr, hcmd, rfl, hcs, hend⟩ := frameFields_eq_some_iff.1 hfields
    exact ⟨hlen, hstart, hend, addr, cmd, cs, haddr, hcmd, hcs, hcrc⟩
  · rintro ⟨hlen, hstart, hend, addr, cmd, cs, haddr, hcmd, hcs, hcrc⟩
    exact ⟨⟨0x02#8, addr, cmd, (f.drop 3).take (f.length - 5), cs, 0x03#8⟩,
      frameFields_eq_some_iff.2 ⟨hlen, hstart, haddr, hcmd, rfl, hcs, hend⟩, rfl, rfl, hcrc⟩

/-- On a capacity of at least 1, VERIFY always completes. -/
theorem exec_verify_of_pos {s : State} (f : Seq) (hN : 1 ≤ s.N) :
    exec (.verify f) s = .next (s.deliver (.bit (verify f))) := by
  rw [exec_verify, State.operate_of_pos hN]

/-- Settles O44: VERIFY delivers `verify f`, whose closed form is `verify_eq_true_iff_getElem?`; a delivery touches no
store. -/
theorem verifyDeliversTheClosedForm : Obligations.VerifyDeliversTheClosedForm := fun f s hN =>
  ⟨s.deliver (.bit (verify f)), verify f, exec_verify_of_pos f hN, rfl, s.sameStore_deliver _,
    verify_eq_true_iff_getElem?⟩

end Sys2Proof.Machine
end

section
/-! PROOFS of the family 60_exceptions.md: an operation is an update that ends in the delivery of a declared result. -/

namespace Sys2Proof.Machine

/-- An operation is one update of the block, and whatever the state the update leaves a result of the declared form
(00_scope.md R11). -/
theorem exec_operation {i : Instr} (h : isOperation i = true) :
    ∃ f, (∀ s, exec i s = s.operate f) ∧ ∀ s, declaredResult i (f s).result = true := by
  cases i with
  | reset => exact ⟨_, exec_reset, fun _ => rfl⟩
  | crc8 m => exact ⟨_, fun s => exec_crc8 s m, fun _ => rfl⟩
  | stuff p => exact ⟨_, fun s => exec_stuff s p, fun _ => rfl⟩
  | unstuff sq => exact ⟨_, fun s => exec_unstuff s sq, fun _ => rfl⟩
  | build addr cmd p => exact ⟨_, fun s => exec_build s addr cmd p, fun _ => rfl⟩
  | verify f => exact ⟨_, fun s => exec_verify s f, fun _ => rfl⟩
  | bufWrite b => exact ⟨_, fun s => exec_bufWrite s b, fun _ => rfl⟩
  | bufRead => exact ⟨_, exec_bufRead, fun _ => rfl⟩
  | extract => exact ⟨_, exec_extract, fun _ => rfl⟩
  | _ => cases h

/-- Settles O10: on a capacity of at least 1 the update that `exec_operation` gives is performed, so the operation
completes with a result of its declared form. -/
theorem everyOperationCompletes : Obligations.EveryOperationCompletes := by
  intro i s hop hN
  obtain ⟨f, hexec, hresult⟩ := exec_operation hop
  exact ⟨f s, by rw [hexec, State.operate_of_pos hN], hresult s⟩

end Sys2Proof.Machine
end

section
/-! PROOFS of the encoder and the decoder (30_encoding.md): programs decode row by row, and every word has one
meaning. -/

namespace Sys2Proof

open Machine

/-- A list of codes decodes exactly when its first code and the codes after it do. -/
theorem decodeAll_cons_eq_ok {c : Code} {rest : List Code} {is : List Instr} :
    decodeAll (c :: rest) = .ok is ↔
      ∃ i js, decode c = .ok i ∧ decodeAll rest = .ok js ∧ is = i :: js := by
  rw [decodeAll]
  cases decode c with
  | error e => simp
  | ok i =>
    cases decodeAll rest with
    | error e => simp
    | ok js => simp [eq_comm]

/-- Decoding goes over concatenations: the rows of the first codes, then those of the second. -/
theorem decodeAll_append {cs ds : List Code} {is js : List Instr} (hcs : decodeAll cs = .ok is)
    (hds : decodeAll ds = .ok js) : decodeAll (cs ++ ds) = .ok (is ++ js) := by
  induction cs generalizing is with
  | nil =>
    cases hcs
    exact hds
  | cons c rest ih =>
    obtain ⟨i, ks, hc, hrest, rfl⟩ := decodeAll_cons_eq_ok.1 hcs
    exact decodeAll_cons_eq_ok.2 ⟨i, ks ++ js, hc, ih hrest, rfl⟩

/-- Decoding the codes of a well-formed row gives what the row stands for. -/
theorem decodeAll_encode {i : Instr} (h : WellFormed i = true) : decodeAll (encode i) = .ok (expand i) := by
  cases i with
  | bufWriteBurst bytes => exact Laws.RoundTrip.bufWriteBurst bytes h
  | dataByte b => exact Laws.RoundTrip.dataByte b h
  | _ => rfl

/-- Settles O3, by induction on the program: each row decodes by `decodeAll_encode`. -/
theorem decodedProgramIsTheEncodedOne : Obligations.DecodedProgramIsTheEncodedOne := by
  intro p hp
  induction p with
  | nil => rfl
  | cons i q ih =>
    obtain ⟨hi, hq⟩ := List.forall_mem_cons.1 hp
    exact decodeAll_append (decodeAll_encode hi) (ih hq)

/-- Settles O1: the row of each of the 16 codes is `decodeOp` at that code. -/
theorem opSelCodesNameTheirRows : Obligations.OpSelCodesNameTheirRows := fun _ =>
  ⟨rfl, rfl, rfl, rfl, rfl, rfl, rfl, rfl, rfl, rfl, rfl, rfl, rfl, rfl, rfl, rfl⟩

/-- The values of `op_sel`, for a proof with one case per value: the nine that name an operation, then the seven
unassigned ones (30_encoding.md R74, R75). -/
theorem opSel_cases (sel : BitVec 4) :
    sel ∈ (List.range 9).map (BitVec.ofNat 4) ∨ sel ∈ (List.range' 9 7).map (BitVec.ofNat 4) := by
  revert sel
  decide

/-- The row an `op_sel` code decodes to is encoded by that `op_sel`, with the operands the row has. -/
theorem encode_decodeOp (sel : BitVec 4) (a : Operands) :
    ∃ a' : Operands, encode (decodeOp sel a) = [.op sel a'] ∧ decodeOp sel a' = decodeOp sel a := by
  rcases opSel_cases sel with hnamed | hunassigned
  · fin_cases hnamed
    all_goals exact ⟨_, rfl, rfl⟩
  · fin_cases hunassigned
    all_goals exact ⟨_, rfl, rfl⟩

/-- A stream byte is the word of the row of its class (30_encoding.md R65). -/
theorem encode_decodeByte (b : Byte) : encode (decodeByte b) = [.byte b] := by
  obtain ⟨rfl, -⟩ | ⟨rfl, -⟩ | ⟨rfl, -⟩ | ⟨-, hData⟩ := byteClass_cases b
  · rfl
  · rfl
  · rfl
  · rw [decodeByte, hData]
    rfl

/-- The row an accepted field code decodes to is that of the field (30_encoding.md R60). -/
theorem decodeField_cases {f : FrameField} {w : Byte} {sq : Seq} {i : Instr} (h : decodeField f w sq = .ok i) :
    (f = .start ∧ i = .frameStart) ∨ (f = .addr ∧ i = .frameAddr w) ∨ (f = .cmd ∧ i = .frameCmd w) ∨
      (f = .stuffedPayload ∧ i = .frameStuffedPayload sq) ∨ (f = .checksum ∧ i = .frameChecksum) ∨
      (f = .endField ∧ i = .frameEnd) := by
  cases f with
  | start | endField =>
    rw [decodeField] at h
    split at h
    · cases h
      simp
    · cases h
  | _ =>
    cases h
    simp

/-- The row an accepted field code decodes to is encoded by a code of that field. -/
theorem encode_decodeField {f : FrameField} {w : Byte} {sq : Seq} {i : Instr} (h : decodeField f w sq = .ok i) :
    ∃ (w' : Byte) (sq' : Seq), encode i = [.field f w' sq'] ∧ decodeField f w' sq' = .ok i := by
  rcases decodeField_cases h with ⟨rfl, rfl⟩ | ⟨rfl, rfl⟩ | ⟨rfl, rfl⟩ | ⟨rfl, rfl⟩ | ⟨rfl, rfl⟩ | ⟨rfl, rfl⟩
  all_goals exact ⟨_, _, rfl, rfl⟩

/-- Settles O4: one lemma per format. -/
theorem encodedRowKeepsItsWord : Obligations.EncodedRowKeepsItsWord :=
  ⟨encode_decodeOp, encode_decodeByte, fun _ _ _ _ h => encode_decodeField h⟩

end Sys2Proof
end

section
/-! PROOFS of the step (60_exceptions.md R200): what the first waiting request makes of it, and when a row
completes. -/

namespace Sys2Proof.Machine

/-- Settles O6: an unassigned `op_sel` is refused without a look at the state. -/
theorem reservedOpSelIsRefused : Obligations.ReservedOpSelIsRefused := fun _ =>
  ⟨rfl, rfl, rfl, rfl, rfl, rfl, rfl⟩

theorem step_of_fetch_code {s : State} {c : Code} {i : Instr} (hfetch : s.fetch = .code c)
    (hdecode : decode c = .ok i) : step s = exec i s.taken := by
  simp only [step, hfetch, hdecode]

/-- An operation that waits first is fetched when none is in progress. -/
theorem State.fetch_op {s : State} {sel : BitVec 4} {a : Operands} {rest : List Request}
    (hpending : s.pending = .op sel a :: rest) (hphase : s.phase = .ready) : s.fetch = .code (.op sel a) := by
  simp [State.fetch, hpending, hphase]

/-- A frame field that waits first is fetched in the phase that takes it. -/
theorem State.fetch_field {s : State} {f : FrameField} {w : Byte} {sq : Seq} {rest : List Request}
    (hpending : s.pending = .field f w sq :: rest) (hphase : s.phase = f.wanted) :
    s.fetch = .code (.field f w sq) := by
  simp [State.fetch, hpending, hphase]

/-- A scan turn that waits first fetches from the snapshot. -/
theorem State.fetch_scan {s : State} {rest : List Request} (hpending : s.pending = .scan :: rest)
    (hphase : s.phase = .scanning) : s.fetch = s.work.fetchByte := by
  simp [State.fetch, hpending, hphase]

theorem Work.fetchByte_of_getElem? {w : Work} {b : Byte} (h : w.D[w.i]? = some b) :
    w.fetchByte = .code (.byte b) := by
  simp [Work.fetchByte, h]

theorem Work.fetchByte_of_end {w : Work} (h : w.D.length ≤ w.i) : w.fetchByte = .endOfData := by
  simp [Work.fetchByte, List.getElem?_eq_none h]

theorem State.taken_eq {s : State} {r : Request} {rest : List Request} (h : s.pending = r :: rest) :
    s.taken = { s with pending := rest } := by
  simp [State.taken, h]

/-- Settles O5: each waiting request is fetched by its `State.fetch` lemma, and taking it leaves the rest of the
queue. -/
theorem stepPerformsTheDecodedRow : Obligations.StepPerformsTheDecodedRow := by
  intro s rest i
  refine ⟨fun sel a hp hphase hi => ?_, fun f w sq hp hphase hi => ?_, fun b hp hphase hb hi => ?_, fun hp => ?_⟩
  · rw [step_of_fetch_code (State.fetch_op hp hphase) hi, State.taken_eq hp]
  · rw [step_of_fetch_code (State.fetch_field hp hphase) hi, State.taken_eq hp]
  · have hfetch := (State.fetch_scan hp hphase).trans (Work.fetchByte_of_getElem? hb)
    rw [step_of_fetch_code hfetch hi, State.taken_eq hp]
  · simp [step, State.fetch, hp]

/-- Settles O9: the fetch takes an operation in the phase `ready` only. -/
theorem overlappingOperationIsRefused : Obligations.OverlappingOperationIsRefused := by
  intro s sel a rest hphase hpending
  have hfetch : s.fetch = .refuse .overlap := by simp [State.fetch, hpending, hphase]
  simp only [step, hfetch]

/-- Settles O8: a well-formed row is an update behind the check of the capacity. -/
theorem zeroCapacityIsRefused : Obligations.ZeroCapacityIsRefused := by
  intro i s hN hwf
  obtain ⟨f, hexec⟩ := exec_operates hwf
  rw [hexec, State.operate_zero hN]

theorem State.operate_completes_iff {s : State} {f : State → State} :
    (∃ t, s.operate f = .next t) ↔ 1 ≤ s.N := by
  constructor
  · rintro ⟨t, h⟩
    exact Nat.one_le_iff_ne_zero.2 (State.operate_eq_next.1 h).1
  · exact fun hN => ⟨f s, State.operate_of_pos hN f⟩

/-- What an `op_sel` code can decode to: one of the nine operations, or a row that is refused in every state. -/
theorem decodeOp_cases (sel : BitVec 4) (a : Operands) :
    isOperation (decodeOp sel a) = true ∨
      (WellFormed (decodeOp sel a) = false ∧ ∀ s, exec (decodeOp sel a) s = .refused (.reservedOpSel sel)) := by
  rcases opSel_cases sel with hnamed | hunassigned
  · fin_cases hnamed
    all_goals exact .inl rfl
  · fin_cases hunassigned
    all_goals exact .inr ⟨rfl, fun _ => rfl⟩

theorem wellFormed_of_isOperation {i : Instr} (h : isOperation i = true) : WellFormed i = true := by
  cases i with
  | reset | crc8 | stuff | unstuff | build | verify | bufWrite | bufRead | extract => rfl
  | _ => cases h

/-- A stream byte's row carries a byte of the class it stands for. -/
theorem wellFormed_decodeByte (b : Byte) : WellFormed (decodeByte b) = true := by
  obtain ⟨rfl, -⟩ | ⟨rfl, -⟩ | ⟨rfl, -⟩ | ⟨-, hData⟩ := byteClass_cases b
  · rfl
  · rfl
  · rfl
  · simp [decodeByte, hData, WellFormed]

theorem wellFormed_of_decodeField {f : FrameField} {w : Byte} {sq : Seq} {i : Instr}
    (h : decodeField f w sq = .ok i) : WellFormed i = true := by
  rcases decodeField_cases h with ⟨-, rfl⟩ | ⟨-, rfl⟩ | ⟨-, rfl⟩ | ⟨-, rfl⟩ | ⟨-, rfl⟩ | ⟨-, rfl⟩
  all_goals rfl

/-- A decoded row is well-formed, or it is refused in every state. -/
theorem decode_cases {c : Code} {i : Instr} (h : decode c = .ok i) :
    WellFormed i = true ∨ (WellFormed i = false ∧ ∃ sel, ∀ s, exec i s = .refused (.reservedOpSel sel)) := by
  cases c with
  | op sel a =>
    cases h
    exact (decodeOp_cases sel a).imp wellFormed_of_isOperation fun ⟨hwf, hexec⟩ => ⟨hwf, sel, hexec⟩
  | byte b =>
    cases h
    exact .inl (wellFormed_decodeByte b)
  | field f w sq => exact .inl (wellFormed_of_decodeField h)

/-- A decoded row completes exactly when it is well-formed and the capacity is at least 1. -/
theorem exec_decoded_completes_iff {c : Code} {i : Instr} (h : decode c = .ok i) (s : State) :
    (∃ t, exec i s = .next t) ↔ WellFormed i = true ∧ 1 ≤ s.N := by
  rcases decode_cases h with hwf | ⟨hwf, sel, hexec⟩
  · obtain ⟨f, hexec⟩ := exec_operates hwf
    rw [hexec, State.operate_completes_iff]
    simp [hwf]
  · simp [hexec, hwf]

/-- Settles O7, by cases on what the step has to do. -/
theorem stepCompletesExactlyWithinTheContract : Obligations.StepCompletesExactlyWithinTheContract := by
  intro s
  rw [step, State.inContract]
  cases s.fetch with
  | nothing => simp
  | scanStart => simp [State.operate_completes_iff]
  | endOfData => simp [State.operate_completes_iff]
  | refuse r => simp
  | code c =>
    cases hc : decode c with
    | error e => simp [hc]
    | ok i => simp [hc, exec_decoded_completes_iff hc]

end Sys2Proof.Machine
end

section
/-! PROOFS of the store (10_state.md): what each row leaves of the capacity, the buffer, the ring and the queue, and
what an operation reads. -/

namespace Sys2Proof.Machine

/-! ### Rows on a capacity of at least 1 -/

theorem exec_reset_of_pos {s : State} (hN : 1 ≤ s.N) : exec .reset s = .next (s.drained.deliver .none) := by
  rw [exec_reset, State.operate_of_pos hN]

theorem exec_bufRead_of_pos {s : State} (hN : 1 ≤ s.N) :
    exec .bufRead s = .next (s.drained.deliver (.bytes s.buf)) := by
  rw [exec_bufRead, State.operate_of_pos hN]

theorem exec_extract_of_pos {s : State} (hN : 1 ≤ s.N) :
    exec .extract s = .next (s.drained.deliver (.bytes (scan s.buf))) := by
  rw [exec_extract, State.operate_of_pos hN]

/-- A sequence of writes is one write of the buffer and one of the ring. -/
theorem State.foldl_writeByte (w : Seq) : ∀ s : State, w.foldl State.writeByte s =
    { s with buf := w.foldl (bufAfterWrite s.N) s.buf, ring := w.foldl (fun r b => r.write s.N b) s.ring } := by
  induction w with
  | nil => exact fun _ => rfl
  | cons b w ih => exact fun s => ih (s.writeByte b)

/-- A burst ends like a BUF_WRITE, after all its writes (20_memory.md R44). -/
theorem exec_bufWriteBurst_of_pos {s : State} (w : Seq) (hN : 1 ≤ s.N) :
    exec (.bufWriteBurst w) s = .next (State.deliver
      { s with buf := w.foldl (bufAfterWrite s.N) s.buf, ring := w.foldl (fun r b => r.write s.N b) s.ring }
      .none) := by
  rw [exec_bufWriteBurst, State.operate_of_pos hN, State.foldl_writeByte]

/-! ### The frame of a row -/

theorem State.sameStore_emitted (s : State) (w : Work) (f : FrameField) : s.sameStore (s.emitted w f) :=
  ⟨rfl, rfl, rfl, rfl⟩

/-- A turn of the scan touches no store, whether it goes on or delivers (45_frame_extractor.md R158). -/
theorem State.sameStore_scanned (s : State) (turn : ScanTurn) : s.sameStore (s.scanned turn) := by
  unfold State.scanned
  split
  · exact s.sameStore_deliver _
  · exact ⟨rfl, rfl, rfl, rfl⟩

/-- A row that touches no buffer is an update that leaves the whole store, or it is refused (10_state.md R33). -/
theorem exec_untouched_cases {i : Instr} (hi : touchesBuffer i = false) :
    (∃ f, (∀ s, exec i s = s.operate f) ∧ ∀ s : State, s.sameStore (f s)) ∨
      ∃ sel, ∀ s, exec i s = .refused (.reservedOpSel sel) := by
  cases i with
  | crc8 | stuff | unstuff | build | verify | frameEnd =>
    exact .inl ⟨_, fun _ => rfl, fun s => s.sameStore_deliver _⟩
  | startByte | endByte | escapeByte | dataByte =>
    exact .inl ⟨_, fun _ => rfl, fun s => s.sameStore_scanned _⟩
  | frameStart | frameAddr | frameCmd | frameStuffedPayload | frameChecksum =>
    exact .inl ⟨_, fun _ => rfl, fun s => s.sameStore_emitted _ _⟩
  | reserved9 | reservedA | reservedB | reservedC | reservedD | reservedE | reservedF =>
    exact .inr ⟨_, fun _ => rfl⟩
  | reset | bufWrite | bufRead | extract | bufWriteBurst => cases hi

theorem exec_sameStore {i : Instr} {s t : State} (hi : touchesBuffer i = false) (h : exec i s = .next t) :
    s.sameStore t := by
  rcases exec_untouched_cases hi with ⟨f, hexec, hstore⟩ | ⟨sel, hrefused⟩
  · rw [hexec] at h
    obtain ⟨-, rfl⟩ := State.operate_eq_next.1 h
    exact hstore s
  · rw [hrefused] at h
    cases h

/-- Settles O12: the rows that touch no buffer by `exec_sameStore`, the five others by their updates. -/
theorem onlyFourOperationsTouchTheBuffer : Obligations.OnlyFourOperationsTouchTheBuffer := by
  intro i s t h
  have hN := exec_next_pos h
  cases hi : touchesBuffer i with
  | false =>
    obtain ⟨hcap, hbuf, hring, hpending⟩ := exec_sameStore hi h
    refine ⟨hcap, hpending, fun _ => ⟨hbuf, hring⟩, ?_, ?_⟩
    · rintro (rfl | rfl | rfl) <;> cases hi
    · rintro b rfl
      cases hi
  | true =>
    cases i with
    | reset =>
      rw [exec_reset_of_pos hN] at h
      cases h
      simp
    | bufRead =>
      rw [exec_bufRead_of_pos hN] at h
      cases h
      simp
    | extract =>
      rw [exec_extract_of_pos hN] at h
      cases h
      simp
    | bufWrite b =>
      rw [exec_bufWrite_of_pos b hN] at h
      cases h
      simp [bufAfterWrite]
    | bufWriteBurst w =>
      rw [exec_bufWriteBurst_of_pos w hN] at h
      cases h
      simp
    | _ => cases hi

/-! ### What an operation reads -/

/-- The operations are the five pure ones and the four that touch the buffer (10_state.md R32, R33). -/
theorem operation_cases {i : Instr} (h : isOperation i = true) :
    isPure i = true ∨ i = .reset ∨ (∃ b, i = .bufWrite b) ∨ i = .bufRead ∨ i = .extract := by
  cases i with
  | crc8 | stuff | unstuff | build | verify => exact .inl rfl
  | reset | bufWrite | bufRead | extract => simp
  | _ => cases h

/-- An operation is an update whose result and store are fixed by the store it starts from (10_state.md R24). -/
theorem exec_operation_reads_store {i : Instr} (h : isOperation i = true) :
    ∃ f, (∀ s, exec i s = s.operate f) ∧
      ∀ s s', s.sameStore s' → (f s').result = (f s).result ∧ (f s).sameStore (f s') := by
  rcases operation_cases h with hpure | rfl | ⟨b, rfl⟩ | rfl | rfl
  · obtain ⟨r, hexec⟩ := exec_pure hpure
    exact ⟨_, hexec, fun _ _ hstore => ⟨rfl, hstore⟩⟩
  · exact ⟨_, exec_reset, fun _ _ ⟨hN, _, hring, hpending⟩ =>
      ⟨rfl, hN, rfl, congrArg Ring.clear hring, hpending⟩⟩
  · refine ⟨_, fun s => exec_bufWrite s b, fun _ _ ⟨hN, hbuf, hring, hpending⟩ =>
      ⟨rfl, hN, ?_, ?_, hpending⟩⟩
    · simp [hN, hbuf]
    · simp [hN, hring]
  · exact ⟨_, exec_bufRead, fun _ _ ⟨hN, hbuf, hring, hpending⟩ =>
      ⟨congrArg Result.bytes hbuf, hN, rfl, congrArg Ring.clear hring, hpending⟩⟩
  · exact ⟨_, exec_extract, fun _ _ ⟨hN, hbuf, hring, hpending⟩ =>
      ⟨congrArg (Result.bytes ∘ scan) hbuf, hN, rfl, congrArg Ring.clear hring, hpending⟩⟩

/-- Settles O13: the two runs perform the one update of `exec_operation_reads_store`. -/
theorem noOperationReadsALeftoverRegister : Obligations.NoOperationReadsALeftoverRegister := by
  intro i s s' t hop hstore h
  obtain ⟨f, hexec, hreads⟩ := exec_operation_reads_store hop
  rw [hexec] at h
  obtain ⟨hN, rfl⟩ := State.operate_eq_next.1 h
  have hN' : s'.N ≠ 0 := by
    obtain ⟨hcap, -⟩ := hstore
    rwa [hcap]
  exact ⟨f s', (hexec s').trans (State.operate_eq_next.2 ⟨hN', rfl⟩), hreads s s' hstore⟩

/-! ### Drains -/

/-- Settles O17: RESET drains and delivers nothing. -/
theorem resetEmptiesTheBuffer : Obligations.ResetEmptiesTheBuffer := fun _ hN =>
  ⟨_, exec_reset_of_pos hN, rfl, rfl, rfl, rfl, rfl, rfl, rfl⟩

/-- Settles O23: BUF_READ drains and delivers the old content. -/
theorem bufReadReturnsAndEmpties : Obligations.BufReadReturnsAndEmpties := fun _ hN =>
  ⟨_, exec_bufRead_of_pos hN, rfl, rfl, rfl, rfl, rfl, rfl, rfl⟩

/-- Settles O47: EXTRACT drains before it scans. -/
theorem extractEmptiesTheBuffer : Obligations.ExtractEmptiesTheBuffer := fun _ hN =>
  ⟨_, exec_extract_of_pos hN, rfl, rfl, rfl, rfl, rfl, rfl⟩

/-- Settles O24: the first drain leaves an empty buffer (as O12 says), and of an empty buffer BUF_READ delivers the
content and EXTRACT the scan, both empty. -/
theorem secondDrainFindsNothing : Obligations.SecondDrainFindsNothing := by
  intro i j s t u hi hj hst htu
  obtain ⟨-, -, -, hdrain, -⟩ := onlyFourOperationsTouchTheBuffer i s t hst
  have hbuf : t.buf = [] := hdrain hi
  have hN := exec_next_pos htu
  rcases hj with rfl | rfl
  · rw [exec_bufRead_of_pos hN, hbuf] at htu
    cases htu
    rfl
  · rw [exec_extract_of_pos hN, hbuf] at htu
    cases htu
    rfl

end Sys2Proof.Machine
end

section
/-! PROOFS of the ring realisation (44_stream_buffer.md R143): a write and a drain of the ring realise those of the
buffer. -/

namespace Sys2Proof.Machine

/-- The live window has `count` cells: its `k`-th and `j`-th are one cell only for `k = j`. -/
theorem Ring.cell_inj {cap h j k : Nat} (hj : j < cap) (hk : k < cap) (heq : (h + j) % cap = (h + k) % cap) :
    j = k :=
  (Nat.ModEq.add_left_cancel' h heq).eq_of_lt_of_lt hj hk

theorem Ring.wf_clear {r : Ring} {cap : Nat} (h : r.wf cap) : r.clear.wf cap := by
  obtain ⟨hmem, hcells, hhead, -⟩ := h
  exact ⟨hmem, hcells, Nat.zero_lt_of_lt hhead, Nat.zero_le cap⟩

theorem Ring.wf_write {r : Ring} {cap : Nat} (h : r.wf cap) (b : Byte) : (r.write cap b).wf cap := by
  obtain ⟨hmem, hcells, hhead, hcount⟩ := h
  have hcap : 0 < cap := Nat.zero_lt_of_lt hhead
  unfold Ring.write
  split
  case isTrue hfull =>
    exact ⟨Memory.wf_write hmem _ b, Memory.write_below b hcells hhead, Nat.mod_lt _ hcap, hcount⟩
  case isFalse hroom =>
    exact ⟨Memory.wf_write hmem _ b, Memory.write_below b hcells (Nat.mod_lt _ hcap), hhead,
      Nat.lt_of_le_of_ne hcount hroom⟩

theorem Ring.length_toSeq (r : Ring) (cap : Nat) : (r.toSeq cap).length = r.count := by
  simp [Ring.toSeq]

/-- A write with room fills the cell after the live window. -/
theorem Ring.toSeq_write_of_room {r : Ring} {cap : Nat} (h : r.wf cap) (hroom : r.count < cap) (b : Byte) :
    (r.write cap b).toSeq cap = r.toSeq cap ++ [b] := by
  have ⟨hmem, _, _, _⟩ := h
  rw [Ring.write, if_neg hroom.ne, Ring.toSeq, Ring.toSeq, List.range_succ, List.map_append]
  congr 1
  · refine List.map_congr_left fun k hk => ?_
    rw [List.mem_range] at hk
    have hne : (r.head + k) % cap ≠ (r.head + r.count) % cap := fun heq =>
      hk.ne (Ring.cell_inj (hk.trans hroom) hroom heq)
    rw [Memory.read_write hmem, if_neg hne]
  · simp [Memory.read_write hmem]

/-- A write to a full ring overwrites the oldest cell, which becomes the last of the window. -/
theorem Ring.toSeq_write_of_full {r : Ring} {cap : Nat} (h : r.wf cap) (hfull : r.count = cap) (b : Byte) :
    (r.write cap b).toSeq cap = (r.toSeq cap).tail ++ [b] := by
  obtain ⟨hmem, -, hhead, -⟩ := h
  obtain ⟨n, rfl⟩ := Nat.exists_eq_add_one.2 (Nat.zero_lt_of_lt hhead)
  have hcell (k : Nat) : ((r.head + 1) % (n + 1) + k) % (n + 1) = (r.head + (k + 1)) % (n + 1) := by
    rw [Nat.mod_add_mod, Nat.add_assoc, Nat.add_comm 1 k]
  have hoffset : (r.head + 0) % (n + 1) = r.head := Nat.mod_eq_of_lt hhead
  have hlast : (r.head + (n + 1)) % (n + 1) = r.head := by
    rw [Nat.add_mod_right, Nat.mod_eq_of_lt hhead]
  have hold : (r.toSeq (n + 1)).tail = (List.range n).map fun k => r.mem.read ((r.head + (k + 1)) % (n + 1)) := by
    simp [Ring.toSeq, hfull, List.range_succ_eq_map]
  rw [hold, Ring.write, if_pos hfull, Ring.toSeq, hfull, List.range_succ, List.map_append]
  congr 1
  · refine List.map_congr_left fun k hk => ?_
    rw [List.mem_range] at hk
    have hne : (r.head + (k + 1)) % (n + 1) ≠ r.head := fun heq =>
      Nat.succ_ne_zero k (Ring.cell_inj (by omega) (Nat.succ_pos n) (heq.trans hoffset.symm))
    rw [hcell, Memory.read_write hmem, if_neg hne]
  · simp [hcell, hlast, Memory.read_write hmem]

/-- A write of the ring realises a write of the buffer. -/
theorem Ring.toSeq_write {r : Ring} {cap : Nat} (h : r.wf cap) (b : Byte) :
    (r.write cap b).toSeq cap = bufAfterWrite cap (r.toSeq cap) b := by
  rw [bufAfterWrite, Ring.length_toSeq]
  split
  case isTrue hfull => exact Ring.toSeq_write_of_full h hfull b
  case isFalse hroom =>
    have ⟨_, _, _, hcount⟩ := h
    exact Ring.toSeq_write_of_room h (Nat.lt_of_le_of_ne hcount hroom) b

/-- Settles O19: the cell read after the write is the one `Memory.read_write` gives; a full and a not full ring
differ in the cell written. -/
theorem bufWriteStoresInOneCell : Obligations.BufWriteStoresInOneCell := by
  intro b s k hN hmem
  refine ⟨_, exec_bufWrite_of_pos b hN, ?_⟩
  by_cases hfull : s.ring.count = s.N
  · simp [Ring.write, hfull, Memory.read_write hmem]
  · simp [Ring.write, hfull, Memory.read_write hmem]

/-- Settles O20: BUF_WRITE by `Ring.toSeq_write`, the two drains by `Ring.wf_clear`. -/
theorem ringRealisesTheBuffer : Obligations.RingRealisesTheBuffer := by
  intro i s t hwf hseq hi h
  have hN := exec_next_pos h
  rcases hi with ⟨b, rfl⟩ | rfl | rfl
  · rw [exec_bufWrite_of_pos b hN] at h
    cases h
    exact ⟨Ring.wf_write hwf b, (Ring.toSeq_write hwf b).trans (congrArg (bufAfterWrite s.N · b) hseq)⟩
  · rw [exec_bufRead_of_pos hN] at h
    cases h
    exact ⟨Ring.wf_clear hwf, rfl⟩
  · rw [exec_reset_of_pos hN] at h
    cases h
    exact ⟨Ring.wf_clear hwf, rfl⟩

end Sys2Proof.Machine
end

section
/-! PROOFS of the invariant (10_state.md R21, R23, R29): it holds at reset and every step keeps it. -/

namespace Sys2Proof.Machine

/-- Settles O14: the fields of `State.reset`. -/
theorem resetStateHoldsNothing : Obligations.ResetStateHoldsNothing :=
  ⟨rfl, rfl, rfl, rfl⟩

/-- Settles O15: buffer, storage array and registers of `State.reset` are empty. -/
theorem invariantHoldsAtReset : Obligations.InvariantHoldsAtReset := by
  unfold Obligations.InvariantHoldsAtReset
  decide

/-! ### What keeps the invariant -/

/-- With the store left alone, only the bounds of the registers are at stake. -/
theorem State.Inv.of_sameStore {s t : State} (h : s.Inv) (hstore : s.sameStore t) (hwork : t.work.bounded t.N) :
    t.Inv := by
  obtain ⟨hN, hbuf, hring, -⟩ := hstore
  obtain ⟨hpos, hlen, hwf, hseq, -⟩ := h
  exact ⟨by rwa [hN], by rwa [hbuf, hN], by rwa [hring, hN], by rwa [hring, hN, hbuf], hwork⟩

theorem State.Inv.work_bounded {s : State} (h : s.Inv) : s.work.bounded s.N := by
  obtain ⟨-, -, -, -, hwork⟩ := h
  exact hwork

theorem State.Inv.deliver {s : State} (h : s.Inv) (r : Result) : (s.deliver r).Inv :=
  h.of_sameStore (s.sameStore_deliver r) (Work.dead_bounded s.N s.ended)

theorem State.Inv.emitted {s : State} (h : s.Inv) {w : Work} (hw : w.bounded s.N) (f : FrameField) :
    (s.emitted w f).Inv :=
  h.of_sameStore (s.sameStore_emitted w f) hw

/-- A drain leaves the empty buffer in a ring that starts over. -/
theorem State.Inv.drained {s : State} (h : s.Inv) : s.drained.Inv := by
  obtain ⟨hpos, -, hwf, -, hwork⟩ := h
  exact ⟨hpos, Nat.zero_le s.N, Ring.wf_clear hwf, rfl, hwork⟩

theorem State.Inv.writeByte {s : State} (h : s.Inv) (b : Byte) : (s.writeByte b).Inv := by
  obtain ⟨hpos, hlen, hwf, hseq, hwork⟩ := h
  refine ⟨hpos, ?_, Ring.wf_write hwf b, (Ring.toSeq_write hwf b).trans ?_, hwork⟩
  · rw [State.writeByte_buf, length_bufAfterWrite b hpos hlen]
    exact Nat.min_le_right _ _
  · rw [hseq, State.writeByte_buf]

/-- The snapshot of a byte-serial EXTRACT is the buffer, which is within the capacity. -/
theorem State.Inv.startScan {s : State} (h : s.Inv) : s.startScan.Inv := by
  have ⟨_, hlen, _⟩ := h
  exact h.drained.of_sameStore ⟨rfl, rfl, rfl, rfl⟩ ⟨Nat.zero_le 0, Nat.zero_le _, hlen⟩

/-- A scan turn with a byte still ahead keeps `|acc| <= i <= |D| <= N` (45_frame_extractor.md R172). -/
theorem State.Inv.scanned {s : State} (h : s.Inv) (b : Byte) (hi : s.work.i < s.work.D.length) :
    (s.scanned (s.work.scanByte b)).Inv := by
  obtain ⟨hacc, -, hD⟩ := h.work_bounded
  rcases hturn : s.work.scanByte b with ⟨w, _ | f⟩
  · obtain ⟨hindex, hsnapshot, hgrows⟩ := Work.scanByte_bounds hturn
    refine h.of_sameStore (s.sameStore_scanned (w, none)) ⟨hgrows hacc, ?_, ?_⟩
    · change w.i ≤ w.D.length
      rw [hindex, hsnapshot]
      exact hi
    · change w.D.length ≤ s.N
      rwa [hsnapshot]
  · exact h.deliver (.bytes f)

/-- The payload field moves no register of the extractor. -/
theorem Work.bounded_fieldPayload {w : Work} {cap : Nat} (h : w.bounded cap) (p : Seq) :
    (w.fieldPayload p).bounded cap := by
  rw [Work.fieldPayload_eq]
  exact h

/-! ### Rows -/

/-- An operation is an update that keeps the invariant. -/
theorem operation_keeps_inv {i : Instr} (h : isOperation i = true) :
    ∃ f, (∀ s, exec i s = s.operate f) ∧ ∀ s, s.Inv → (f s).Inv := by
  rcases operation_cases h with hpure | rfl | ⟨b, rfl⟩ | rfl | rfl
  · obtain ⟨r, hexec⟩ := exec_pure hpure
    exact ⟨_, hexec, fun _ hs => hs.deliver r⟩
  · exact ⟨_, exec_reset, fun _ hs => hs.drained.deliver _⟩
  · exact ⟨_, fun s => exec_bufWrite s b, fun _ hs => (hs.writeByte b).deliver _⟩
  · exact ⟨_, exec_bufRead, fun _ hs => hs.drained.deliver _⟩
  · exact ⟨_, exec_extract, fun _ hs => hs.drained.deliver _⟩

/-- A frame field is an update that moves no register of the extractor. -/
theorem field_keeps_inv {f : FrameField} {w : Byte} {sq : Seq} {i : Instr} (h : decodeField f w sq = .ok i) :
    ∃ g, (∀ s, exec i s = s.operate g) ∧ ∀ s, s.Inv → (g s).Inv := by
  rcases decodeField_cases h with ⟨-, rfl⟩ | ⟨-, rfl⟩ | ⟨-, rfl⟩ | ⟨-, rfl⟩ | ⟨-, rfl⟩ | ⟨-, rfl⟩
  · exact ⟨_, exec_frameStart, fun _ hs => hs.emitted hs.work_bounded .addr⟩
  · exact ⟨_, fun s => exec_frameAddr s w, fun _ hs => hs.emitted hs.work_bounded .cmd⟩
  · exact ⟨_, fun s => exec_frameCmd s w, fun _ hs => hs.emitted hs.work_bounded .stuffedPayload⟩
  · exact ⟨_, fun s => exec_frameStuffedPayload s sq, fun _ hs =>
      hs.emitted (Work.bounded_fieldPayload hs.work_bounded sq) .checksum⟩
  · exact ⟨_, exec_frameChecksum, fun _ hs => hs.emitted hs.work_bounded .endField⟩
  · exact ⟨_, exec_frameEnd, fun _ hs => hs.deliver _⟩

/-! ### The step -/

/-- What a step that completes can do: nothing, a turn of a byte-serial EXTRACT that takes no byte, or the row of
the code it fetched. -/
theorem step_cases {s t : State} (h : step s = .next t) :
    t = s ∨ t = s.taken.startScan ∨ t = s.taken.endScan ∨
      ∃ c i, s.fetch = .code c ∧ decode c = .ok i ∧ exec i s.taken = .next t := by
  rw [step] at h
  split at h
  · exact .inl (by simpa [eq_comm] using h)
  · exact .inr (.inl (State.operate_eq_next.1 h).2)
  · exact .inr (.inr (.inl (State.operate_eq_next.1 h).2))
  · cases h
  case _ c hfetch =>
    split at h
    case _ i hdecode => exact .inr (.inr (.inr ⟨c, i, hfetch, hdecode, h⟩))
    case _ => cases h

/-- A stream byte is fetched from the snapshot, at the scan index (45_frame_extractor.md R158). -/
theorem State.getElem?_of_fetch_byte {s : State} {b : Byte} (h : s.fetch = .code (.byte b)) :
    s.work.D[s.work.i]? = some b := by
  unfold State.fetch at h
  split at h
  · cases h
  · split at h <;> cases h
  · split at h <;> cases h
  · split at h <;> cases h
  · split at h
    · unfold Work.fetchByte at h
      split at h
      case _ b' hb =>
        cases h
        exact hb
      case _ => cases h
    · cases h

/-- An update behind the check of the capacity that keeps the invariant keeps it when it is performed. -/
theorem inv_of_operates {i : Instr} {f : State → State} {s t : State} (hexec : ∀ s, exec i s = s.operate f)
    (hf : (f s).Inv) (h : exec i s = .next t) : t.Inv := by
  rw [hexec] at h
  obtain ⟨-, rfl⟩ := State.operate_eq_next.1 h
  exact hf

/-- Settles O16, along `step_cases`; of the codes, operations and fields keep the invariant in every state, a stream
byte because it was fetched inside the snapshot. -/
theorem everyStepKeepsTheInvariant : Obligations.EveryStepKeepsTheInvariant := by
  intro s t hs hstep
  have htaken : s.taken.Inv := hs
  rcases step_cases hstep with rfl | rfl | rfl | ⟨c, i, hfetch, hdecode, h⟩
  · exact hs
  · exact htaken.startScan
  · exact htaken.deliver _
  · cases c with
    | op sel a =>
      cases hdecode
      rcases decodeOp_cases sel a with hop | ⟨-, hrefused⟩
      · obtain ⟨f, hexec, hf⟩ := operation_keeps_inv hop
        exact inv_of_operates hexec (hf _ htaken) h
      · rw [hrefused] at h
        cases h
    | field f w sq =>
      obtain ⟨g, hexec, hg⟩ := field_keeps_inv hdecode
      exact inv_of_operates hexec (hg _ htaken) h
    | byte b =>
      cases hdecode
      have hi : s.work.i < s.work.D.length := (List.getElem?_eq_some_iff.1 (State.getElem?_of_fetch_byte hfetch)).1
      exact inv_of_operates (fun s => exec_decodeByte s b) (htaken.scanned b hi) h

end Sys2Proof.Machine
end

section
/-! PROOFS of the burst (20_memory.md R44, R59): what a sequence of writes leaves, performed at once and one by
one. -/

namespace Sys2Proof.Machine

/-- A write to a buffer within its capacity leaves the newest bytes (20_memory.md R41, R43). -/
theorem bufAfterWrite_eq_lastBytes {cap : Nat} {buf : Seq} (b : Byte) (hcap : 1 ≤ cap) (hlen : buf.length ≤ cap) :
    bufAfterWrite cap buf b = lastBytes (buf ++ [b]) cap := by
  unfold bufAfterWrite lastBytes
  rw [List.length_append, List.length_singleton]
  split
  case isTrue hfull =>
    have hdrop : buf.length + 1 - cap = 1 := by omega
    rw [hdrop, List.drop_one, List.tail_append_of_ne_nil (List.ne_nil_of_length_pos (by omega))]
  case isFalse hroom =>
    have hdrop : buf.length + 1 - cap = 0 := by omega
    rw [hdrop, List.drop_zero]

/-- Bytes lost before further ones come would be lost afterwards as well. -/
theorem lastBytes_lastBytes_append (u v : Seq) (k : Nat) :
    lastBytes (lastBytes u k ++ v) k = lastBytes (u ++ v) k := by
  unfold lastBytes
  rw [← List.drop_append_of_le_length (Nat.sub_le _ _), List.drop_drop]
  congr 1
  simp only [List.length_drop, List.length_append]
  omega

/-- The capacity law and the order law (20_memory.md R59). -/
theorem foldl_bufAfterWrite {cap : Nat} (hcap : 1 ≤ cap) (w : Seq) {buf : Seq} (hlen : buf.length ≤ cap) :
    w.foldl (bufAfterWrite cap) buf = lastBytes (buf ++ w) cap := by
  induction w generalizing buf with
  | nil => simp [lastBytes, Nat.sub_eq_zero_of_le hlen]
  | cons b w ih =>
    have hlen' : (bufAfterWrite cap buf b).length ≤ cap := by
      rw [length_bufAfterWrite b hcap hlen]
      exact Nat.min_le_right _ _
    rw [List.foldl_cons, ih hlen', bufAfterWrite_eq_lastBytes b hcap hlen, lastBytes_lastBytes_append,
      List.append_assoc, List.singleton_append]

/-- Settles O21: the buffer of a burst is the fold of its writes. -/
theorem burstLeavesTheLastBytes : Obligations.BurstLeavesTheLastBytes := fun w _ hN hlen =>
  ⟨_, exec_bufWriteBurst_of_pos w hN, rfl, foldl_bufAfterWrite hN w hlen, rfl, rfl⟩

/-- A step that completes is the first of a run. -/
theorem run_succ_of_step {s t : State} (h : step s = .next t) (k : Nat) :
    Sys2Proof.core.run (k + 1) s = Sys2Proof.core.run k t := by
  have hcore : Sys2Proof.core.step s = .next t := h
  simp only [Host.Core.run, hcore]

/-- BUF_WRITEs that wait are performed one a step, and leave what the burst of them leaves. -/
theorem run_bufWrites {rest : List Request} (w : Seq) {s : State} (hN : 1 ≤ s.N) (hphase : s.phase = .ready)
    (hpending : s.pending = w.map (fun b => .op 0x6#4 { byte0 := b }) ++ rest) :
    ∃ u : State, Sys2Proof.core.run w.length s = .next u ∧
      u.buf = w.foldl (bufAfterWrite s.N) s.buf ∧ u.ring = w.foldl (fun r b => r.write s.N b) s.ring ∧
      u.N = s.N ∧ u.pending = rest := by
  induction w generalizing s with
  | nil => exact ⟨s, rfl, rfl, rfl, rfl, hpending⟩
  | cons b w ih =>
    have hstep : step s = .next ((s.taken.writeByte b).deliver .none) :=
      (step_of_fetch_code (State.fetch_op hpending hphase) rfl).trans (exec_bufWrite_of_pos b hN)
    obtain ⟨u, hrun, hu⟩ := ih (s := (s.taken.writeByte b).deliver .none) hN rfl (by simp [hpending])
    exact ⟨u, (run_succ_of_step hstep w.length).trans hrun, hu⟩

/-- Settles O22: the run by `run_bufWrites`, the burst by its fold. -/
theorem burstIsItsWrites : Obligations.BurstIsItsWrites := by
  intro w s rest hN hphase
  obtain ⟨u, hrun, hbuf, hring, hcap, hpending⟩ :=
    run_bufWrites (rest := rest) w
      (s := { s with pending := w.map (fun b => .op 0x6#4 { byte0 := b }) ++ rest }) hN hphase rfl
  exact ⟨_, u, exec_bufWriteBurst_of_pos w hN, hrun, hbuf, hring, hcap, hpending⟩

end Sys2Proof.Machine
end

section
/-! PROOFS of the checksum (40_crc8.md): bit step, byte step and table agree; the checksum is linear and
incremental. -/

namespace Sys2Proof.Machine

/-- A shift moves each bit up by one (00_scope.md R17). -/
theorem getLsbD_shl1 (c : Byte) {i : Nat} (hpos : 0 < i) (hi : i < 8) : (shl1 c).getLsbD i = c.getLsbD (i - 1) := by
  rw [shl1, BitVec.getLsbD_shiftLeft]
  simp [hi, Nat.not_lt.2 hpos]

theorem shl1_xor (a b : Byte) : shl1 (a ^^^ b) = shl1 a ^^^ shl1 b :=
  BitVec.shiftLeft_xor_distrib a b 1

/-- The bit step as a sum: the shifted accumulator and, when the bit that falls out and the data bit differ, the
generator. -/
theorem crcBit_eq_xor (c : Byte) (d : Bool) :
    crcBit c d = shl1 c ^^^ (if c.getLsbD 7 ^^ d then Config.CRC_POLY else 0#8) := by
  unfold crcBit
  split
  · rfl
  · rw [BitVec.xor_zero]

/-- The bit step is linear in the accumulator and the data bit together. -/
theorem crcBit_xor (a b : Byte) (d e : Bool) : crcBit (a ^^^ b) (d ^^ e) = crcBit a d ^^^ crcBit b e := by
  have htop : ((a ^^^ b).getLsbD 7 ^^ (d ^^ e)) = ((a.getLsbD 7 ^^ d) ^^ (b.getLsbD 7 ^^ e)) := by
    simp only [BitVec.getLsbD_xor, Bool.xor_assoc, Bool.xor_left_comm]
  have hfeedback (s t : Bool) : (if s ^^ t then Config.CRC_POLY else 0#8) =
      (if s then Config.CRC_POLY else 0#8) ^^^ (if t then Config.CRC_POLY else 0#8) := by
    revert s t
    decide
  rw [crcBit_eq_xor, crcBit_eq_xor, crcBit_eq_xor, shl1_xor, htop, hfeedback]
  ac_rfl

theorem crcShift_eq_crcBit (c : Byte) : crcShift c = crcBit c false := by
  simp [crcShift, crcBit]

theorem crcShift_xor (a b : Byte) : crcShift (a ^^^ b) = crcShift a ^^^ crcShift b := by
  simpa [crcShift_eq_crcBit] using crcBit_xor a b false false

/-- One turn of the byte step takes the top bit of the data byte and leaves the rest of the byte shifted up
(40_crc8.md R88, R89). -/
theorem crcShift_xor_data (c b : Byte) : crcShift (c ^^^ b) = crcBit c (b.getLsbD 7) ^^^ shl1 b := by
  have htop : crcBit b (b.getLsbD 7) = shl1 b := by simp [crcBit]
  rw [← htop, ← crcBit_xor, Bool.xor_self, crcShift_eq_crcBit]

/-- The byte step feeds the eight bits of the byte, bit 7 first (40_crc8.md R89). -/
theorem crcByte_eq_foldl_crcBit (c b : Byte) : crcByte c b = (msbFirst b).foldl crcBit c := by
  have hout : shl1 (shl1 (shl1 (shl1 (shl1 (shl1 (shl1 (shl1 b))))))) = 0#8 := by
    simp [shl1, ← BitVec.shiftLeft_add]
  simp only [crcByte, crcShift_xor_data, msbFirst, List.foldl_cons, List.foldl_nil, getLsbD_shl1,
    Nat.reduceLT, Nat.reduceSub, hout, BitVec.xor_zero]

/-- Settles O26: each byte of the fold of O25 is fed bit by bit. -/
theorem crc8FeedsBitsMostSignificantFirst : Obligations.Crc8FeedsBitsMostSignificantFirst := by
  intro m s hN
  refine ⟨_, exec_crc8_of_pos m hN, congrArg Result.byte ?_⟩
  have hstep : crcByte = fun c b => (msbFirst b).foldl crcBit c :=
    funext fun c => funext (crcByte_eq_foldl_crcBit c)
  rw [List.foldl_flatMap, ← hstep]
  exact crc8_eq_foldl m

/-- The byte step sees accumulator and byte through their XOR only (40_crc8.md R89). -/
theorem crcByte_eq_crcByte_zero (c b : Byte) : crcByte c b = crcByte 0#8 (c ^^^ b) := by
  simp [crcByte]

/-- The printed table row by row against the byte step (40_crc8.md R92). -/
theorem crcTable_eq_map : crcTable = (List.range 256).map fun k => crcByte 0#8 (BitVec.ofNat 8 k) := by
  decide +kernel

/-- A turn of the byte step loses no byte: the generator's lowest term shows the bit that fell out. -/
theorem eq_zero_of_crcShift_eq_zero {c : Byte} (h : crcShift c = 0#8) : c = 0#8 := by
  rw [crcShift_eq_crcBit, crcBit_eq_xor, Bool.xor_false] at h
  have htop : c.getLsbD 7 = false := by
    cases htop : c.getLsbD 7 with
    | false => rfl
    | true =>
      rw [htop] at h
      have hlow := congrArg (BitVec.getLsbD · 0) h
      simp [shl1, Config.CRC_POLY] at hlow
  have hshift : shl1 c = 0#8 := by
    rw [htop] at h
    simpa using h
  refine BitVec.eq_of_getLsbD_eq fun i hi => ?_
  rw [BitVec.getLsbD_zero]
  rcases Nat.lt_or_ge i 7 with hlow | hhigh
  · have hbit := getLsbD_shl1 c (i := i + 1) (by omega) (by omega)
    rwa [hshift, BitVec.getLsbD_zero, Nat.add_sub_cancel, eq_comm] at hbit
  · obtain rfl : i = 7 := by omega
    exact htop

theorem crcShift_injective : Function.Injective crcShift := by
  intro a b hab
  have hzero : crcShift (a ^^^ b) = 0#8 := by rw [crcShift_xor, hab, BitVec.xor_self]
  exact BitVec.xor_eq_zero_iff.1 (eq_zero_of_crcShift_eq_zero hzero)

theorem crcByte_injective_right (c : Byte) : Function.Injective (crcByte c) := by
  intro a b hab
  simpa [crcByte, crcShift_injective.eq_iff] using hab

/-- Every byte occurs at most once in the table, the byte step being injective. -/
theorem crcTable_nodup : crcTable.Nodup := by
  rw [crcTable_eq_map]
  refine List.nodup_range.map_on fun j hj k hk hjk => ?_
  have hnat := congrArg BitVec.toNat (crcByte_injective_right 0#8 hjk)
  rwa [BitVec.toNat_ofNat, BitVec.toNat_ofNat, Nat.mod_eq_of_lt (List.mem_range.1 hj),
    Nat.mod_eq_of_lt (List.mem_range.1 hk)] at hnat

/-- Settles O27: `crcTable_eq_map` at the index `c xor b`, and `crcTable_nodup`. -/
theorem crcTableIsTheByteStep : Obligations.CrcTableIsTheByteStep := by
  refine ⟨fun c b => ?_, by simp [crcTable_eq_map], crcTable_nodup⟩
  have hindex : (c ^^^ b).toNat < 256 := BitVec.isLt _
  rw [crcByte_eq_crcByte_zero, crcTable_eq_map, List.getElem?_map, List.getElem?_range hindex,
    Option.map_some, BitVec.ofNat_toNat, BitVec.setWidth_eq]

theorem crcByte_xor (a b c d : Byte) : crcByte (a ^^^ b) (c ^^^ d) = crcByte a c ^^^ crcByte b d := by
  have hswap : a ^^^ b ^^^ (c ^^^ d) = (a ^^^ c) ^^^ (b ^^^ d) := by ac_rfl
  simp only [crcByte, hswap, crcShift_xor]

theorem crcByte_self (c : Byte) : crcByte c c = 0#8 := by
  rw [crcByte_eq_crcByte_zero, BitVec.xor_self]
  decide

/-- The fold of the byte step is linear in the start value and the message together. -/
theorem foldl_crcByte_xor {u v : Seq} (hlen : u.length = v.length) (a b : Byte) :
    (List.zipWith (· ^^^ ·) u v).foldl crcByte (a ^^^ b) = u.foldl crcByte a ^^^ v.foldl crcByte b := by
  induction u generalizing v a b with
  | nil =>
    obtain rfl := List.length_eq_zero_iff.1 hlen.symm
    rfl
  | cons x u ih =>
    cases v with
    | nil => cases hlen
    | cons y v =>
      rw [List.zipWith_cons_cons, List.foldl_cons, crcByte_xor]
      exact ih (Nat.succ.inj hlen) (crcByte a x) (crcByte b y)

/-- The checksum is linear over equal lengths (40_crc8.md R96). -/
theorem crc8_zipWith_xor {u v : Seq} (hlen : u.length = v.length) :
    crc8 (List.zipWith (· ^^^ ·) u v) = crc8 u ^^^ crc8 v := by
  rw [crc8_eq_foldl, crc8_eq_foldl, crc8_eq_foldl, ← foldl_crcByte_xor hlen]
  rfl

/-- Leading zero bytes are not seen (40_crc8.md R96). -/
theorem crc8_zero_cons (m : Seq) : crc8 (0x00#8 :: m) = crc8 m := by
  rw [crc8_eq_foldl, crc8_eq_foldl, List.foldl_cons]
  exact congrArg (m.foldl crcByte) (crcByte_self 0#8)

theorem crc8_replicate_zero (n : Nat) : crc8 (List.replicate n 0x00#8) = 0x00#8 := by
  induction n with
  | zero => rfl
  | succ n ih => rw [List.replicate_succ, crc8_zero_cons, ih]

/-- Settles O28: one lemma per law. -/
theorem crcIsIncrementalAndLinear : Obligations.CrcIsIncrementalAndLinear :=
  ⟨crc8_append, fun _ _ => crc8_zipWith_xor, crc8_zero_cons, crc8_replicate_zero⟩

end Sys2Proof.Machine
end

section
/-! PROOFS of the checksum's polynomial form (40_crc8.md R91, R98): a byte sequence as a polynomial over GF(2), which
leaves the checksum modulo the generator. -/

namespace Sys2Proof.Machine

open Polynomial

/-- `G(x) = x^8 + x^2 + x + 1` (40_crc8.md R87). -/
noncomputable def generator : (ZMod 2)[X] := X ^ 8 + X ^ 2 + X + 1

/-- The polynomial of one byte: bit `j` is the coefficient of `x^j`. -/
noncomputable def bytePoly (b : Byte) : (ZMod 2)[X] :=
  ∑ j ∈ Finset.range 8, if b.getLsbD j then X ^ j else 0

/-- The polynomial `M(x)` of a message, its last byte the lowest (40_crc8.md R91). -/
noncomputable def seqPoly (m : Seq) : (ZMod 2)[X] :=
  m.foldl (fun q b => q * X ^ 8 + bytePoly b) 0

theorem seqPoly_concat (m : Seq) (b : Byte) : seqPoly (m ++ [b]) = seqPoly m * X ^ 8 + bytePoly b := by
  simp [seqPoly]

/-- `M(x)` written out: bit `j` of `m[k]` is the coefficient of `x^(8(|m|-1-k)+j)` (40_crc8.md R91). -/
theorem seqPoly_eq_sum (m : Seq) :
    seqPoly m = ∑ k ∈ Finset.range m.length, ∑ j ∈ Finset.range 8,
      if (m.getD k 0#8).getLsbD j then X ^ (8 * (m.length - 1 - k) + j) else 0 := by
  induction m using List.reverseRecOn with
  | nil => simp [seqPoly]
  | append_singleton m b ih =>
    rw [seqPoly_concat, ih, List.length_append, List.length_singleton, Finset.sum_range_succ, Finset.sum_mul]
    refine congrArg₂ (· + ·) ?_ ?_
    · refine Finset.sum_congr rfl fun k hk => ?_
      rw [Finset.mem_range] at hk
      rw [List.getD_append _ _ _ _ hk, Finset.sum_mul]
      refine Finset.sum_congr rfl fun j _ => ?_
      have hexp : 8 * (m.length + 1 - 1 - k) + j = 8 * (m.length - 1 - k) + j + 8 := by omega
      rw [hexp, pow_add X (8 * (m.length - 1 - k) + j) 8, ite_mul, zero_mul]
    · simp [bytePoly]

/-! ### One byte -/

theorem bytePoly_xor (a b : Byte) : bytePoly (a ^^^ b) = bytePoly a + bytePoly b := by
  rw [bytePoly, bytePoly, bytePoly, ← Finset.sum_add_distrib]
  refine Finset.sum_congr rfl fun j _ => ?_
  rw [BitVec.getLsbD_xor]
  cases a.getLsbD j <;> cases b.getLsbD j <;> simp [CharTwo.add_self_eq_zero]

theorem coeff_bytePoly (b : Byte) (j : Nat) : (bytePoly b).coeff j = if b.getLsbD j then 1 else 0 := by
  have hterm (k : Nat) : (if b.getLsbD k then (X : (ZMod 2)[X]) ^ k else 0).coeff j =
      if j = k then (if b.getLsbD j then 1 else 0) else 0 := by
    by_cases hjk : j = k
    · subst hjk
      cases b.getLsbD j <;> simp
    · cases b.getLsbD k <;> simp [coeff_X_pow, hjk]
  rw [bytePoly, finsetSum_coeff]
  simp only [hterm, Finset.sum_ite_eq, Finset.mem_range]
  split
  · rfl
  · rw [BitVec.getLsbD_of_ge b j (by omega)]
    rfl

theorem bytePoly_injective : Function.Injective bytePoly := by
  intro a b hab
  refine BitVec.eq_of_getLsbD_eq fun j _ => ?_
  have hbit (s t : Bool) : (if s then (1 : ZMod 2) else 0) = (if t then 1 else 0) → s = t := by
    revert s t
    decide
  have hcoeff := congrArg (coeff · j) hab
  simp only [coeff_bytePoly] at hcoeff
  exact hbit _ _ hcoeff

theorem degree_generator : generator.degree = 8 := by
  unfold generator
  compute_degree!

theorem monic_generator : generator.Monic := by
  unfold generator
  monicity!

theorem degree_bytePoly_lt (b : Byte) : (bytePoly b).degree < generator.degree := by
  rw [degree_generator]
  refine (degree_lt_iff_coeff_zero _ 8).2 fun j hj => ?_
  rw [coeff_bytePoly, BitVec.getLsbD_of_ge b j hj]
  rfl

/-- A shift is a multiplication by `x`, but for the bit that falls out. -/
theorem bytePoly_shl1 (c : Byte) : bytePoly (shl1 c) = bytePoly c * X + if c.getLsbD 7 then X ^ 8 else 0 := by
  have hlow : (shl1 c).getLsbD 0 = false := by simp [shl1]
  rw [bytePoly, bytePoly, Finset.sum_range_succ' _ 7, Finset.sum_range_succ _ 7, add_mul, add_assoc, Finset.sum_mul]
  refine congrArg₂ (· + ·) ?_ ?_
  · refine Finset.sum_congr rfl fun j hj => ?_
    rw [Finset.mem_range] at hj
    rw [getLsbD_shl1 c (i := j + 1) (by omega) (by omega), Nat.add_sub_cancel, pow_succ, ite_mul, zero_mul]
  · rw [hlow, ite_mul, zero_mul, ← pow_succ, CharTwo.add_self_eq_zero]
    rfl

/-- A turn of the byte step is a multiplication by `x` modulo the generator (40_crc8.md R89). -/
theorem bytePoly_crcShift (c : Byte) :
    bytePoly (crcShift c) = bytePoly c * X + if c.getLsbD 7 then generator else 0 := by
  have hpoly : bytePoly Config.CRC_POLY = X ^ 2 + X + 1 := by
    simp [bytePoly, Finset.sum_range_succ, Config.CRC_POLY]
    ring
  rw [crcShift_eq_crcBit, crcBit_eq_xor, bytePoly_xor, bytePoly_shl1, Bool.xor_false, add_assoc]
  refine congrArg (bytePoly c * X + ·) ?_
  cases c.getLsbD 7
  · simp [bytePoly]
  · simp [hpoly, generator, add_assoc]

/-! ### Modulo the generator -/

theorem mk_bytePoly_crcShift (c : Byte) :
    AdjoinRoot.mk generator (bytePoly (crcShift c)) =
      AdjoinRoot.mk generator (bytePoly c) * AdjoinRoot.mk generator X := by
  rw [bytePoly_crcShift, map_add, map_mul]
  cases c.getLsbD 7 <;> simp

/-- The byte step adds the byte and multiplies by `x^8`, modulo the generator (40_crc8.md R91). -/
theorem mk_bytePoly_crcByte (c b : Byte) :
    AdjoinRoot.mk generator (bytePoly (crcByte c b)) =
      AdjoinRoot.mk generator ((bytePoly c + bytePoly b) * X ^ 8) := by
  simp only [crcByte, mk_bytePoly_crcShift, bytePoly_xor, map_mul, map_pow]
  ring

/-- The checksum is congruent to `M(x) * x^8` (40_crc8.md R91). -/
theorem mk_seqPoly (m : Seq) :
    AdjoinRoot.mk generator (seqPoly m * X ^ 8) = AdjoinRoot.mk generator (bytePoly (crc8 m)) := by
  induction m using List.reverseRecOn with
  | nil => simp [seqPoly, bytePoly, crc8, Config.CRC_INIT, Config.CRC_XOROUT]
  | append_singleton m b ih =>
    rw [seqPoly_concat, crc8_append, List.foldl_cons, List.foldl_nil, mk_bytePoly_crcByte, map_mul, map_add, ih,
      ← map_add, ← map_mul]

/-- Settles O30: the checksum is congruent to `M(x) * x^8` and of degree below 8, so it is the remainder. -/
theorem crcIsThePolynomialRemainder : Obligations.CrcIsThePolynomialRemainder := by
  intro m
  rw [← seqPoly_eq_sum]
  change (seqPoly m * X ^ 8) %ₘ generator = bytePoly (crc8 m)
  obtain ⟨q, hq⟩ := AdjoinRoot.mk_eq_mk.1 (mk_seqPoly m)
  exact (div_modByMonic_unique q (bytePoly (crc8 m)) monic_generator
    ⟨by rw [← hq, add_sub_cancel], degree_bytePoly_lt _⟩).2

/-- A byte sequence with one byte behind it is a multiple of the generator exactly when that byte is its checksum
(40_crc8.md R97, R98). -/
theorem generator_dvd_seqPoly_concat_iff {m : Seq} {c : Byte} :
    generator ∣ seqPoly (m ++ [c]) ↔ crc8 m = c := by
  have hsum : AdjoinRoot.mk generator (seqPoly (m ++ [c])) = AdjoinRoot.mk generator (bytePoly (crc8 m ^^^ c)) := by
    rw [seqPoly_concat, bytePoly_xor, map_add, map_add, mk_seqPoly]
  have hzero : bytePoly 0#8 = 0 := by simp [bytePoly]
  rw [← AdjoinRoot.mk_eq_zero, hsum, AdjoinRoot.mk_eq_zero, ← BitVec.xor_eq_zero_iff]
  constructor
  · exact fun hdvd => bytePoly_injective
      ((eq_zero_of_dvd_of_degree_lt hdvd (degree_bytePoly_lt _)).trans hzero.symm)
  · intro heq
    rw [heq, hzero]
    exact dvd_zero generator

theorem getD_zipWith_xor {u v : Seq} (hlen : u.length = v.length) (k : Nat) :
    (List.zipWith (· ^^^ ·) u v).getD k 0#8 = u.getD k 0#8 ^^^ v.getD k 0#8 := by
  induction u generalizing v k with
  | nil =>
    obtain rfl := List.length_eq_zero_iff.1 hlen.symm
    simp
  | cons x u ih =>
    cases v with
    | nil => cases hlen
    | cons y v =>
      cases k with
      | zero => rfl
      | succ k => simpa using ih (Nat.succ.inj hlen) k

/-- Settles O31: the error polynomial is that of the XOR of the two codewords, which is again a message with a byte
behind it, and by linearity that byte is its checksum exactly when `c'` is the checksum of `m'`. -/
theorem undetectedErrorIsAMultipleOfTheGenerator : Obligations.UndetectedErrorIsAMultipleOfTheGenerator := by
  intro m m' c' hlen
  have hzip : List.zipWith (· ^^^ ·) (m ++ [crc8 m]) (m' ++ [c']) =
      List.zipWith (· ^^^ ·) m m' ++ [crc8 m ^^^ c'] := List.zipWith_append hlen.symm
  have herror := seqPoly_eq_sum (List.zipWith (· ^^^ ·) (m ++ [crc8 m]) (m' ++ [c']))
  simp only [getD_zipWith_xor (u := m ++ [crc8 m]) (v := m' ++ [c']) (by simp [hlen])] at herror
  simp only [List.length_zipWith, List.length_append, List.length_singleton, hlen, Nat.min_self,
    Nat.add_sub_cancel] at herror
  rw [← herror]
  change _ ↔ generator ∣ _
  rw [hzip, generator_dvd_seqPoly_concat_iff, crc8_zipWith_xor hlen.symm]
  simp

end Sys2Proof.Machine
end

section
/-! PROOFS of the bit parity (40_crc8.md R97, 41_stuffing.md R110): the number of 1 bits of a sequence modulo 2 is
its polynomial at 1, where the generator vanishes. -/

namespace Sys2Proof.Machine

open Polynomial

theorem ones_append (u v : Seq) : ones (u ++ v) = ones u + ones v := by
  simp [ones]

theorem ones_cons (b : Byte) (t : Seq) : ones (b :: t) = ones [b] + ones t :=
  ones_append [b] t

theorem eval_one_bytePoly (b : Byte) : (bytePoly b).eval 1 = ones [b] := by
  have hbit (d : Bool) (j : Nat) :
      (if d then (X : (ZMod 2)[X]) ^ j else 0).eval 1 = ((if d then 1 else 0 : Nat) : ZMod 2) := by
    cases d <;> simp
  rw [bytePoly, eval_finsetSum]
  simp only [hbit, Finset.sum_range_succ, Finset.sum_range_zero, ones, msbFirst,
    List.flatMap_cons, List.flatMap_nil, List.append_nil, List.count_cons, List.count_nil, beq_true]
  push_cast
  ring

theorem eval_one_seqPoly (m : Seq) : (seqPoly m).eval 1 = ones m := by
  induction m using List.reverseRecOn with
  | nil => simp [seqPoly, ones]
  | append_singleton m b ih => simp [seqPoly_concat, ones_append, ih, eval_one_bytePoly]

/-- `x + 1` divides the generator: it has an even number of terms. -/
theorem eval_one_generator : generator.eval 1 = 0 := by
  simp only [generator, eval_add, eval_pow, eval_X, eval_one, one_pow]
  decide

/-- A message followed by its checksum has an even number of 1 bits (40_crc8.md R97). -/
theorem ones_codeword_even (m : Seq) : ones (m ++ [crc8 m]) % 2 = 0 := by
  obtain ⟨q, hq⟩ := generator_dvd_seqPoly_concat_iff.2 (rfl : crc8 m = crc8 m)
  have heval : ((ones (m ++ [crc8 m]) : Nat) : ZMod 2) = 0 := by
    rw [← eval_one_seqPoly, hq, eval_mul, eval_one_generator, zero_mul]
  exact Nat.even_iff.1 ((ZMod.natCast_eq_zero_iff_even).1 heval)

/-- Settles O29: the checksum fed to itself leaves zero, and the parity is `ones_codeword_even`. -/
theorem codewordHasZeroResidueAndEvenParity : Obligations.CodewordHasZeroResidueAndEvenParity := fun m =>
  ⟨(crc8_append m [crc8 m]).trans (crcByte_self (crc8 m)), ones_codeword_even m⟩

/-- The flip of one bit changes the parity of a byte. -/
theorem ones_xor_twoPow (b : Byte) {j : Nat} (hj : j < 8) :
    ones [b ^^^ BitVec.twoPow 8 j] % 2 = (ones [b] + 1) % 2 := by
  have hflip : ones [BitVec.twoPow 8 j] = 1 := by
    interval_cases j <;> rfl
  have heval : ((ones [b ^^^ BitVec.twoPow 8 j] : Nat) : ZMod 2) = ((ones [b] + 1 : Nat) : ZMod 2) := by
    rw [← eval_one_bytePoly, bytePoly_xor, eval_add, eval_one_bytePoly, eval_one_bytePoly, hflip, Nat.cast_add]
  exact (ZMod.natCast_eq_natCast_iff' _ _ 2).1 heval

/-- The flip of one bit changes the parity of a sequence. -/
theorem ones_flipBit {f : Seq} {k j : Nat} (hk : k < f.length) (hj : j < 8) :
    ones (flipBit f k j) % 2 = (ones f + 1) % 2 := by
  have hset (x : Byte) : ones (f.set k x) = ones (f.take k) + ones [x] + ones (f.drop (k + 1)) := by
    rw [List.set_eq_take_append_cons_drop, if_pos hk, ones_append, ones_cons, Nat.add_assoc]
  have hsplit : ones f = ones (f.take k) + ones [f.getD k 0#8] + ones (f.drop (k + 1)) := by
    rw [← hset, List.getD_eq_getElem _ _ hk, List.set_getElem_self]
  have hbyte := ones_xor_twoPow (f.getD k 0#8) hj
  rw [flipBit, hset, hsplit]
  omega

end Sys2Proof.Machine
end

section
/-! PROOFS of unstuffing on any sequence (41_stuffing.md R108, R110). -/

namespace Sys2Proof.Machine

/-- Unstuffing drops no more than every other byte, and only escapes, which have four 1 bits (41_stuffing.md R110). -/
theorem unstuff_bounds (sq : Seq) :
    sq.length / 2 ≤ (unstuff sq).length ∧ (unstuff sq).length ≤ sq.length ∧
      ones (unstuff sq) % 2 = ones sq % 2 := by
  have hescape : ones [Config.ESCAPE] = 4 := rfl
  induction sq using unstuff.induct with
  | case1 => simp [unstuff]
  | case2 => exact ⟨Nat.le_refl 0, Nat.zero_le 1, by rw [hescape]; rfl⟩
  | case3 b hb =>
    rw [unstuff_cons_of_ne hb]
    simp [unstuff]
  | case4 x t ih =>
    rw [unstuff_escape_cons, ones_cons Config.ESCAPE, ones_cons x t, ones_cons x, hescape]
    simp only [List.length_cons]
    omega
  | case5 b x t hb ih =>
    rw [unstuff_cons_of_ne hb, ones_cons b (x :: t), ones_cons b]
    simp only [List.length_cons] at ih ⊢
    omega

/-- Settles O37: the bounds and the parity by `unstuff_bounds`; a canonical sequence is the stuffing of what it
unstuffs to. -/
theorem unstuffLengthParityAndCanonicalForms : Obligations.UnstuffLengthParityAndCanonicalForms := by
  intro sq
  obtain ⟨hhalf, hlen, hparity⟩ := unstuff_bounds sq
  refine ⟨hhalf, hlen, hparity, fun h => ⟨unstuff sq, h.symm⟩, ?_⟩
  rintro ⟨p, rfl⟩
  rw [unstuff_stuff]

end Sys2Proof.Machine
end

section
/-! PROOFS of frames in wire form (30_encoding.md R60, R61, R68): the fields and the sequence determine each other, and
what VERIFY accepts is exactly a delimited codeword. -/

namespace Sys2Proof.Machine

/-- The sequence that has these fields (30_encoding.md R60). -/
def Fields.wire (x : Fields) : Seq :=
  [x.startByte, x.addr, x.cmd] ++ x.raw ++ [x.cs, x.endByte]

theorem frameFields_wire (x : Fields) : frameFields x.wire = some x := by
  refine frameFields_eq_some_iff.2 ?_
  simp [Fields.wire]

/-- A sequence of 5 bytes or more is the wire form of some fields. -/
theorem exists_eq_wire {f : Seq} (h : 5 ≤ f.length) : ∃ x : Fields, f = x.wire := by
  match f, h with
  | start :: addr :: cmd :: t, h =>
    have hlen : 2 ≤ t.length := by
      simp only [List.length_cons] at h
      omega
    obtain ⟨u, stop, rfl⟩ := (List.eq_nil_or_concat t).resolve_left (List.ne_nil_of_length_pos (by omega))
    rw [List.length_concat] at hlen
    obtain ⟨raw, cs, rfl⟩ := (List.eq_nil_or_concat u).resolve_left (List.ne_nil_of_length_pos (by omega))
    exact ⟨⟨start, addr, cmd, raw, cs, stop⟩, by simp [Fields.wire]⟩

theorem frameFields_eq_some_iff_eq_wire {f : Seq} {x : Fields} : frameFields f = some x ↔ f = x.wire := by
  constructor
  · intro h
    obtain ⟨hlen, -⟩ := frameFields_eq_some_iff.1 h
    obtain ⟨y, rfl⟩ := exists_eq_wire hlen
    rw [Option.some.inj ((frameFields_wire y).symm.trans h)]
  · rintro rfl
    exact frameFields_wire x

/-- VERIFY accepts exactly the sequences of this form (43_frame_verifier.md R132, R134). -/
theorem verify_eq_true_iff_eq {f : Seq} :
    verify f = true ↔ ∃ addr cmd raw,
      f = [Config.START, addr, cmd] ++ raw ++ [crc8 ([addr, cmd] ++ unstuff raw), Config.END] := by
  rw [verify_eq_true_iff]
  constructor
  · rintro ⟨x, hfields, hstart, hend, hcrc⟩
    refine ⟨x.addr, x.cmd, x.raw, ?_⟩
    rw [hcrc, ← hstart, ← hend]
    exact frameFields_eq_some_iff_eq_wire.1 hfields
  · rintro ⟨addr, cmd, raw, hf⟩
    exact ⟨⟨Config.START, addr, cmd, raw, crc8 ([addr, cmd] ++ unstuff raw), Config.END⟩,
      frameFields_eq_some_iff_eq_wire.2 hf, rfl, rfl, rfl⟩

/-- A built frame is the wire form of its operands and their checksum (42_frame_builder.md R116). -/
theorem build_eq_wire (addr cmd : Byte) (p : Seq) :
    build addr cmd p = Fields.wire ⟨Config.START, addr, cmd, stuff p, crc8 ([addr, cmd] ++ p), Config.END⟩ :=
  rfl

/-- A built frame verifies (42_frame_builder.md R121 (b)). -/
theorem verify_build (addr cmd : Byte) (p : Seq) : verify (build addr cmd p) = true :=
  verify_eq_true_iff_eq.2 ⟨addr, cmd, stuff p, by rw [unstuff_stuff]; rfl⟩

/-- A sequence VERIFY accepts has an odd number of 1 bits: an even codeword between the two delimiters. -/
theorem ones_odd_of_verify {f : Seq} (h : verify f = true) : ones f % 2 = 1 := by
  obtain ⟨addr, cmd, raw, rfl⟩ := verify_eq_true_iff_eq.1 h
  have hcode := ones_codeword_even ([addr, cmd] ++ unstuff raw)
  obtain ⟨-, -, hraw⟩ := unstuff_bounds raw
  have hstart : ones [Config.START] = 1 := rfl
  have hend : ones [Config.END] = 2 := rfl
  have hsplit (c : Byte) : [Config.START, addr, cmd] ++ raw ++ [c, Config.END] =
      [Config.START] ++ [addr, cmd] ++ raw ++ [c] ++ [Config.END] := by simp
  simp only [hsplit, ones_append, hstart, hend] at hcode ⊢
  omega

/-! ### The statements -/

/-- The length of a built frame (30_encoding.md R61). -/
theorem length_build (addr cmd : Byte) (p : Seq) :
    (build addr cmd p).length = 5 + p.length + p.countP isReserved := by
  simp only [build, List.length_append, List.length_cons, List.length_nil, length_stuff]
  omega

/-- Settles O39: `length_build`, with at most every payload byte reserved. -/
theorem builtFrameLength : Obligations.BuiltFrameLength := by
  intro addr cmd p
  have hlen := length_build addr cmd p
  have hcount : p.countP isReserved ≤ p.length := List.countP_le_length
  exact ⟨hlen, by omega, by omega⟩

/-- Settles O40: BUILD keeps the capacity, so VERIFY completes after it, and it accepts by `verify_build`. -/
theorem builtFramesVerify : Obligations.BuiltFramesVerify := fun addr cmd p s hN =>
  ⟨build addr cmd p, _, _, exec_build_of_pos addr cmd p hN, rfl,
    exec_verify_of_pos (s := s.deliver _) (build addr cmd p) hN, congrArg Result.bit (verify_build addr cmd p)⟩

/-- Settles O41: equal frames have equal fields, and the payload is what the raw field unstuffs to. -/
theorem buildIsInjective : Obligations.BuildIsInjective := by
  intro addr cmd addr' cmd' p p' h
  rw [build_eq_wire, build_eq_wire] at h
  have hfields := (frameFields_wire _).symm.trans ((congrArg frameFields h).trans (frameFields_wire _))
  obtain ⟨-, haddr, hcmd, hraw, -⟩ := Fields.mk.inj (Option.some.inj hfields)
  exact ⟨haddr, hcmd, by rw [← unstuff_stuff p, hraw, unstuff_stuff]⟩

/-- Settles O45: the operand has the form `verify_eq_true_iff_eq` names. -/
theorem verifyAcceptsNonCanonicalPayloads : Obligations.VerifyAcceptsNonCanonicalPayloads := fun addr cmd raw _ hN =>
  ⟨_, exec_verify_of_pos _ hN, congrArg Result.bit (verify_eq_true_iff_eq.2 ⟨addr, cmd, raw, rfl⟩)⟩

/-- Settles O46: every accepted sequence has odd parity, whatever its escapes, and a flip makes the built frame's
even. -/
theorem singleBitFlipIsRejected : Obligations.SingleBitFlipIsRejected := by
  intro addr cmd p k j s hN hk hj
  refine ⟨_, exec_verify_of_pos _ hN, congrArg Result.bit (Bool.eq_false_iff.2 fun hflipped => ?_)⟩
  have hbuilt := ones_odd_of_verify (verify_build addr cmd p)
  have hodd := ones_odd_of_verify hflipped
  rw [ones_flipBit hk hj] at hodd
  omega

end Sys2Proof.Machine
end

section
/-! PROOFS of the builder field by field (42_frame_builder.md R116, R120). -/

namespace Sys2Proof.Machine

/-- Settles O42: each field is one update of the registers; the payload's is `Work.fieldPayload_eq`, and the checksum
is the accumulator, no final XOR being taken. -/
theorem frameFieldsEmitTheirBytes : Obligations.FrameFieldsEmitTheirBytes := by
  intro s hN
  refine ⟨?_, fun addr => ?_, fun cmd => ?_, fun p => ?_, ?_, ?_⟩
  · rw [exec_frameStart, State.operate_of_pos hN]
    rfl
  · rw [exec_frameAddr, State.operate_of_pos hN]
    rfl
  · rw [exec_frameCmd, State.operate_of_pos hN]
    rfl
  · rw [exec_frameStuffedPayload, State.operate_of_pos hN, Work.fieldPayload_eq]
    rfl
  · have hchecksum : s.work.checksum = s.work.crc := BitVec.xor_zero
    rw [exec_frameChecksum, State.operate_of_pos hN, Work.fieldChecksum, hchecksum]
    rfl
  · exact ⟨_, (exec_frameEnd s).trans (State.operate_of_pos hN _), rfl, s.sameStore_deliver _, rfl⟩

/-- A field that waits in the phase that takes it is emitted, when the row it stands for is the update `f`. -/
theorem step_of_field {s : State} {fd : FrameField} {w : Byte} {sq : Seq} {rest : List Request} {i : Instr}
    {f : State → State} (hN : 1 ≤ s.N) (hpending : s.pending = .field fd w sq :: rest)
    (hphase : s.phase = fd.wanted) (hdecode : decodeField fd w sq = .ok i) (hexec : ∀ s, exec i s = s.operate f) :
    step s = .next (f { s with pending := rest }) := by
  rw [← State.taken_eq hpending, step_of_fetch_code (State.fetch_field hpending hphase) hdecode, hexec,
    State.operate_of_pos (s := s.taken) hN]

/-- A run that starts with a field whose row updates the registers by `g`, after which the field `next` is taken. -/
theorem run_of_emitted {s : State} {fd next : FrameField} {w : Byte} {sq : Seq} {rest : List Request} {i : Instr}
    {g : Work → Work} {k : Nat} (hN : 1 ≤ s.N) (hpending : s.pending = .field fd w sq :: rest)
    (hphase : s.phase = fd.wanted) (hdecode : decodeField fd w sq = .ok i)
    (hexec : ∀ s, exec i s = s.operate fun s => s.emitted (g s.work) next) :
    Sys2Proof.core.run (k + 1) s =
      Sys2Proof.core.run k { s with pending := rest, work := g s.work, result := .none, phase := .building next } :=
  run_succ_of_step (step_of_field hN hpending hphase hdecode hexec) k

/-- A run of the last field delivers the frame. -/
theorem run_of_frameEnd {s : State} {rest : List Request} (hN : 1 ≤ s.N)
    (hpending : s.pending = .field .endField 0x03#8 [] :: rest) (hphase : s.phase = .building .endField) :
    Sys2Proof.core.run 1 s = .next (State.deliver { s with pending := rest } (.bytes s.work.fieldEnd.out)) :=
  run_succ_of_step (step_of_field hN hpending hphase rfl exec_frameEnd) 0

/-- Settles O43: six steps, each taking the field that waits first in the phase the one before has left; the
registers after the last are those of the whole builder. -/
theorem fieldByFieldBuildGivesTheFrame : Obligations.FieldByFieldBuildGivesTheFrame := by
  intro addr cmd p s rest hN hphase
  refine ⟨State.deliver { s with pending := rest } (.bytes (s.work.buildRun addr cmd p).out), ?_,
    congrArg Result.bytes (Work.buildRun_out s.work addr cmd p), rfl, rfl, rfl, rfl, rfl⟩
  refine Eq.trans (run_of_emitted (g := Work.fieldStart) hN rfl hphase rfl exec_frameStart) ?_
  refine Eq.trans (run_of_emitted (g := (·.fieldAddr addr)) hN rfl rfl rfl (exec_frameAddr · addr)) ?_
  refine Eq.trans (run_of_emitted (g := (·.fieldCmd cmd)) hN rfl rfl rfl (exec_frameCmd · cmd)) ?_
  refine Eq.trans (run_of_emitted (g := (·.fieldPayload p)) hN rfl rfl rfl (exec_frameStuffedPayload · p)) ?_
  refine Eq.trans (run_of_emitted (g := Work.fieldChecksum) hN rfl rfl rfl exec_frameChecksum) ?_
  exact run_of_frameEnd hN rfl rfl

end Sys2Proof.Machine
end

section
/-! PROOFS of `scan` (45_frame_extractor.md R165 to R176): it delivers the first candidate of the stream that
verifies. -/

namespace Sys2Proof.Machine

/-! ### The scan byte by byte -/

theorem isDelimiter_iff (b : Byte) : isDelimiter b = true ↔ b = Config.START ∨ b = Config.END := by
  simp [isDelimiter]

theorem ne_of_not_delimiter {b : Byte} (h : isDelimiter b = false) : b ≠ Config.START ∧ b ≠ Config.END := by
  simpa [isDelimiter] using h

/-- A `START` opens a candidate, in either state (45_frame_extractor.md R159). -/
theorem scanGo_start (t : Seq) (st : ScanState) (a : Seq) :
    scanGo (Config.START :: t) st a = scanGo t .inFrame [Config.START] :=
  if_pos rfl

/-- Outside a candidate every byte but `START` is skipped (45_frame_extractor.md R161, R162). -/
theorem scanGo_idle_skip {b : Byte} (h : b ≠ Config.START) (t a : Seq) :
    scanGo (b :: t) .idle a = scanGo t .idle a := by
  simp [scanGo, h]

/-- The accumulator of the state `IDLE` is not read. -/
theorem scanGo_idle (d a : Seq) : scanGo d .idle a = scan d := by
  induction d generalizing a with
  | nil => rfl
  | cons b t ih =>
    by_cases hb : b = Config.START
    · subst hb
      rw [scan, scanGo_start, scanGo_start]
    · rw [scan, scanGo_idle_skip hb, scanGo_idle_skip hb, ih, scan]

theorem scan_start_cons (t : Seq) : scan (Config.START :: t) = scanGo t .inFrame [Config.START] :=
  scanGo_start t .idle []

theorem scan_cons_of_ne {b : Byte} (h : b ≠ Config.START) (t : Seq) : scan (b :: t) = scan t :=
  scanGo_idle_skip h t []

/-- Inside a candidate an `END` delivers it or gives it up (45_frame_extractor.md R160). -/
theorem scanGo_inFrame_end (t a : Seq) :
    scanGo (Config.END :: t) .inFrame a =
      if verify (a ++ [Config.END]) then a ++ [Config.END] else scan t := by
  rw [← scanGo_idle t []]
  rfl

/-- Inside a candidate a byte that is no delimiter is appended (45_frame_extractor.md R162, R163). -/
theorem scanGo_inFrame_other {b : Byte} (h : isDelimiter b = false) (t a : Seq) :
    scanGo (b :: t) .inFrame a = scanGo t .inFrame (a ++ [b]) := by
  obtain ⟨hstart, hend⟩ := ne_of_not_delimiter h
  simp [scanGo, hstart, hend]

theorem scanGo_inFrame_append {x : Seq} (hx : ∀ b ∈ x, isDelimiter b = false) (t a : Seq) :
    scanGo (x ++ t) .inFrame a = scanGo t .inFrame (a ++ x) := by
  induction x generalizing a with
  | nil => simp
  | cons b x ih =>
    obtain ⟨hb, hx⟩ := List.forall_mem_cons.1 hx
    rw [List.cons_append, scanGo_inFrame_other hb, ih hx, List.append_assoc, List.singleton_append]

theorem candidate_append (x t : Seq) :
    [Config.START] ++ x ++ [Config.END] ++ t = Config.START :: (x ++ Config.END :: t) := by
  simp

/-- A verified candidate is delivered as soon as the scan takes its `START`, whatever follows it
(45_frame_extractor.md R178). -/
theorem scan_candidate_append {c : Seq} (hc : isCandidate c) (hv : verify c = true) (t : Seq) :
    scan (c ++ t) = c := by
  obtain ⟨x, rfl, hx⟩ := hc
  rw [candidate_append, scan_start_cons, scanGo_inFrame_append hx, scanGo_inFrame_end, if_pos hv]

/-- A scan that delivers nothing leaves no trace a following `START` would not wipe out (45_frame_extractor.md
R165). -/
theorem scanGo_append_start {noise : Seq} {st : ScanState} {a : Seq} (h : scanGo noise st a = []) (t : Seq) :
    scanGo (noise ++ Config.START :: t) st a = scan (Config.START :: t) := by
  induction noise generalizing st a with
  | nil => rw [List.nil_append, scanGo_start, scan_start_cons]
  | cons b n ih =>
    rw [List.cons_append]
    by_cases hstart : b = Config.START
    · subst hstart
      rw [scanGo_start] at h ⊢
      exact ih h
    cases st with
    | idle =>
      rw [scanGo_idle_skip hstart] at h ⊢
      exact ih h
    | inFrame =>
      by_cases hend : b = Config.END
      · subst hend
        rw [scanGo_inFrame_end] at h ⊢
        split at h
        case isTrue => simp at h
        case isFalse hv =>
          rw [if_neg hv]
          exact ih h
      · have hb : isDelimiter b = false := by simp [isDelimiter, hstart, hend]
        rw [scanGo_inFrame_other hb] at h ⊢
        exact ih h

/-! ### Candidates at the front of a stream -/

/-- A sequence splits at its first delimiter in one way. -/
theorem first_delimiter_unique {x y t z : Seq} {b e : Byte} (hx : ∀ b ∈ x, isDelimiter b = false)
    (hy : ∀ b ∈ y, isDelimiter b = false) (hb : isDelimiter b = true) (he : isDelimiter e = true)
    (heq : x ++ b :: t = y ++ e :: z) : x = y ∧ b = e := by
  induction x generalizing y with
  | nil =>
    cases y with
    | nil =>
      obtain ⟨hbe, -⟩ := List.cons.inj heq
      exact ⟨rfl, hbe⟩
    | cons c y =>
      obtain ⟨rfl, -⟩ := List.cons.inj heq
      rw [hy b List.mem_cons_self] at hb
      cases hb
  | cons c x ih =>
    obtain ⟨hc, hx⟩ := List.forall_mem_cons.1 hx
    cases y with
    | nil =>
      obtain ⟨rfl, -⟩ := List.cons.inj heq
      rw [hc] at he
      cases he
    | cons d y =>
      obtain ⟨rfl, htail⟩ := List.cons.inj heq
      obtain ⟨-, hy⟩ := List.forall_mem_cons.1 hy
      obtain ⟨rfl, hbe⟩ := ih hx hy htail
      exact ⟨rfl, hbe⟩

/-- A candidate at the front of a stream ends at the first delimiter behind its `START`. -/
theorem candidate_at_front {x t c z : Seq} {b : Byte} (hx : ∀ b ∈ x, isDelimiter b = false)
    (hb : isDelimiter b = true) (hc : isCandidate c) (heq : Config.START :: x ++ b :: t = c ++ z) :
    b = Config.END ∧ c = Config.START :: x ++ [Config.END] := by
  obtain ⟨y, rfl, hy⟩ := hc
  rw [candidate_append] at heq
  obtain ⟨-, htail⟩ := List.cons.inj heq
  obtain ⟨rfl, rfl⟩ := first_delimiter_unique hx hy hb (by decide) htail
  exact ⟨rfl, rfl⟩

theorem start_of_candidate_at_front {b : Byte} {t c z : Seq} (hc : isCandidate c) (heq : b :: t = c ++ z) :
    b = Config.START := by
  obtain ⟨y, rfl, -⟩ := hc
  exact (List.cons.inj heq).1

/-! ### The first verified candidate -/

/-- `r` is the first candidate of `d` that verifies, or empty when none does (45_frame_extractor.md R176). -/
def FirstVerified (d r : Seq) : Prop :=
  (r = [] ∧ ∀ a c z, d = a ++ c ++ z → isCandidate c → verify c = false) ∨
    (∃ a z, d = a ++ r ++ z ∧ isCandidate r ∧ verify r = true ∧
      ∀ a' c' z', d = a' ++ c' ++ z' → isCandidate c' → verify c' = true → a.length ≤ a'.length)

/-- A verified candidate at the front is the first one. -/
theorem FirstVerified.front {c : Seq} (hc : isCandidate c) (hv : verify c = true) (t : Seq) :
    FirstVerified (c ++ t) c :=
  .inr ⟨[], t, rfl, hc, hv, fun _ _ _ _ _ _ => Nat.zero_le _⟩

/-- A byte at which no verified candidate begins does not change which one is the first. -/
theorem FirstVerified.cons {b : Byte} {t r : Seq} (h : FirstVerified t r)
    (hfront : ∀ c z, b :: t = c ++ z → isCandidate c → verify c = false) : FirstVerified (b :: t) r := by
  rcases h with ⟨rfl, hnone⟩ | ⟨a, z, rfl, hr, hv, hfirst⟩
  · refine .inl ⟨rfl, fun a c z heq hc => ?_⟩
    cases a with
    | nil => exact hfront c z heq hc
    | cons d a =>
      obtain ⟨-, heq⟩ := List.cons.inj heq
      exact hnone a c z heq hc
  · refine .inr ⟨b :: a, z, rfl, hr, hv, fun a' c' z' heq hc hv' => ?_⟩
    cases a' with
    | nil =>
      rw [hfront c' z' heq hc] at hv'
      cases hv'
    | cons d a' =>
      obtain ⟨-, heq⟩ := List.cons.inj heq
      exact Nat.succ_le_succ (hfirst a' c' z' heq hc hv')

theorem FirstVerified.cons_of_ne {b : Byte} {t r : Seq} (h : FirstVerified t r) (hb : b ≠ Config.START) :
    FirstVerified (b :: t) r :=
  h.cons fun _ _ heq hc => absurd (start_of_candidate_at_front hc heq) hb

theorem FirstVerified.append {x t r : Seq} (h : FirstVerified t r) (hx : ∀ b ∈ x, b ≠ Config.START) :
    FirstVerified (x ++ t) r := by
  induction x with
  | nil => exact h
  | cons b x ih =>
    obtain ⟨hb, hx⟩ := List.forall_mem_cons.1 hx
    exact (ih hx).cons_of_ne hb

/-- Behind `START` and non-delimiters, a delimiter that completes no verified candidate makes the search go on from that
delimiter. -/
theorem FirstVerified.abandoned {x t r : Seq} {b : Byte} (h : FirstVerified (b :: t) r)
    (hx : ∀ b ∈ x, isDelimiter b = false) (hb : isDelimiter b = true)
    (hv : b = Config.END → verify (Config.START :: x ++ [Config.END]) = false) :
    FirstVerified (Config.START :: x ++ b :: t) r := by
  refine (h.append fun c hc => (ne_of_not_delimiter (hx c hc)).1).cons fun c z heq hc => ?_
  obtain ⟨hend, rfl⟩ := candidate_at_front hx hb hc heq
  exact hv hend

theorem firstVerified_nil : FirstVerified [] [] := by
  refine .inl ⟨rfl, fun a c z heq hc => ?_⟩
  obtain ⟨x, rfl, -⟩ := hc
  simp at heq

/-- An open candidate holds no whole one: it has no `END`. -/
theorem firstVerified_open {x : Seq} (hx : ∀ b ∈ x, isDelimiter b = false) :
    FirstVerified (Config.START :: x) [] := by
  refine .inl ⟨rfl, fun a c z heq hc => ?_⟩
  obtain ⟨y, rfl, -⟩ := hc
  have hend : Config.END ∈ Config.START :: x := by simp [heq]
  rcases List.mem_cons.1 hend with h | h
  · cases h
  · exact absurd (hx _ h) (by decide)

/-- Inside a candidate `START x` the scan delivers the first verified candidate of `x` and what is still ahead, with
that `START`; outside, of what is still ahead. -/
theorem firstVerified_scan_and_inFrame (d : Seq) :
    FirstVerified d (scan d) ∧
      ∀ x : Seq, (∀ b ∈ x, isDelimiter b = false) →
        FirstVerified (Config.START :: x ++ d) (scanGo d .inFrame (Config.START :: x)) := by
  induction d with
  | nil =>
    refine ⟨firstVerified_nil, fun x hx => ?_⟩
    rw [List.append_nil]
    exact firstVerified_open hx
  | cons b t ih =>
    obtain ⟨hscan, hframe⟩ := ih
    have hfront : FirstVerified (b :: t) (scan (b :: t)) := by
      by_cases hstart : b = Config.START
      · subst hstart
        rw [scan_start_cons]
        exact hframe [] (by simp)
      · rw [scan_cons_of_ne hstart]
        exact hscan.cons_of_ne hstart
    refine ⟨hfront, fun x hx => ?_⟩
    cases hb : isDelimiter b with
    | false =>
      have hx' : ∀ c ∈ x ++ [b], isDelimiter c = false := by
        simpa [or_imp, forall_and, hb] using hx
      rw [scanGo_inFrame_other hb]
      simpa using hframe (x ++ [b]) hx'
    | true =>
      rcases (isDelimiter_iff b).1 hb with rfl | rfl
      · rw [scanGo_start, ← scan_start_cons]
        exact hfront.abandoned hx hb fun h => absurd h (by decide)
      · rw [scanGo_inFrame_end]
        split
        case isTrue hv =>
          have hfront := FirstVerified.front ⟨x, rfl, hx⟩ hv t
          rwa [candidate_append] at hfront
        case isFalse hv =>
          have hend : Config.END ≠ Config.START := by decide
          rw [scan_cons_of_ne hend] at hfront
          exact hfront.abandoned hx hb fun _ => Bool.eq_false_iff.2 hv

theorem firstVerified_scan (d : Seq) : FirstVerified d (scan d) :=
  (firstVerified_scan_and_inFrame d).1

/-- The scan delivers nothing, or a verified candidate of the stream. -/
theorem scan_cases (d : Seq) :
    scan d = [] ∨ (isCandidate (scan d) ∧ verify (scan d) = true ∧ (scan d).length ≤ d.length) := by
  rcases firstVerified_scan d with ⟨hnil, -⟩ | ⟨a, z, hd, hc, hv, -⟩
  · exact .inl hnil
  · have hlen := congrArg List.length hd
    rw [List.length_append, List.length_append] at hlen
    exact .inr ⟨hc, hv, by omega⟩

/-! ### The statements -/

/-- Settles O48: the scan over the registers is the function `scan`. -/
theorem extractDeliversTheScan : Obligations.ExtractDeliversTheScan := fun _ hN =>
  ⟨_, exec_extract_of_pos hN, rfl⟩

/-- Settles O49: what the scan delivers verifies, and what verifies is in wire form. -/
theorem extractIsAllOrNothing : Obligations.ExtractIsAllOrNothing := by
  intro s hN
  refine ⟨_, scan s.buf, exec_extract_of_pos hN, rfl, ?_⟩
  rcases scan_cases s.buf with hnil | ⟨-, hv, -⟩
  · exact .inl hnil
  · refine .inr ?_
    obtain ⟨addr, cmd, raw, hwire⟩ := verify_eq_true_iff_eq.1 hv
    refine ⟨?_, ?_, hv, ?_⟩
    · simp [hwire, Config.START]
    · rw [hwire, List.getLast?_append]
      rfl
    · simp [hwire]

/-- Settles O50: `firstVerified_scan` at the buffer's content. -/
theorem extractDeliversTheFirstVerifiedCandidate : Obligations.ExtractDeliversTheFirstVerifiedCandidate := fun s hN =>
  ⟨_, scan s.buf, exec_extract_of_pos hN, rfl, firstVerified_scan s.buf⟩

end Sys2Proof.Machine
end

section
/-! PROOFS of built frames in the stream (45_frame_extractor.md R170, R178; 30_encoding.md R73). -/

namespace Sys2Proof.Machine

/-- What stands between the delimiters of a sequence is its interior (45_frame_extractor.md R170). -/
theorem interior_delimited (x : Seq) : interior ([Config.START] ++ x ++ [Config.END]) = x := by
  simp [interior, slice_eq_take_drop]

theorem build_eq_delimited (addr cmd : Byte) (p : Seq) :
    build addr cmd p =
      [Config.START] ++ ([addr, cmd] ++ stuff p ++ [crc8 ([addr, cmd] ++ p)]) ++ [Config.END] := by
  simp [build]

theorem interior_build (addr cmd : Byte) (p : Seq) :
    interior (build addr cmd p) = [addr, cmd] ++ stuff p ++ [crc8 ([addr, cmd] ++ p)] := by
  rw [build_eq_delimited, interior_delimited]

/-- A built frame is a candidate exactly when its interior holds no delimiter (45_frame_extractor.md R169, R170). -/
theorem isCandidate_build_iff {addr cmd : Byte} {p : Seq} :
    isCandidate (build addr cmd p) ↔ ∀ b ∈ interior (build addr cmd p), isDelimiter b = false := by
  constructor
  · rintro ⟨x, hx, hclean⟩
    rwa [hx, interior_delimited]
  · intro hclean
    exact ⟨_, build_eq_delimited addr cmd p, by rwa [← interior_build]⟩

/-- Stuffing brings in no delimiter and takes none away: an escape is none (90_conflicts.md C1). -/
theorem forall_mem_stuff_iff {p : Seq} :
    (∀ b ∈ stuff p, isDelimiter b = false) ↔ ∀ b ∈ p, isDelimiter b = false := by
  have hone (b : Byte) : (∀ c ∈ stuffOne b, isDelimiter c = false) ↔ isDelimiter b = false := by
    have hescape : isDelimiter Config.ESCAPE = false := rfl
    cases hb : isReserved b with
    | false => simp [stuffOne_of_not_reserved hb]
    | true => simp [stuffOne_of_reserved hb, hescape]
  induction p with
  | nil => rfl
  | cons b q ih =>
    rw [stuff, List.forall_mem_append, List.forall_mem_cons]
    exact (hone b).and ih

/-- Settles O52: the noise delivers nothing, and at its `START` the frame, a verified candidate, is delivered. -/
theorem frameIsFoundBetweenNoise : Obligations.FrameIsFoundBetweenNoise := by
  intro addr cmd p noise more s hN hclean hnoise hbuf
  refine ⟨_, exec_extract_of_pos hN, congrArg Result.bytes ?_⟩
  have hframe := scan_candidate_append (isCandidate_build_iff.2 hclean) (verify_build addr cmd p) more
  rw [hbuf, List.append_assoc]
  exact (scanGo_append_start hnoise _).trans hframe

/-- A burst into an empty buffer that can hold it is the whole content (20_memory.md R59). -/
theorem foldl_bufAfterWrite_nil {cap : Nat} {w : Seq} (hcap : 1 ≤ cap) (hlen : w.length ≤ cap) :
    w.foldl (bufAfterWrite cap) [] = w := by
  rw [foldl_bufAfterWrite (buf := []) hcap w (Nat.zero_le cap), List.nil_append, lastBytes, Nat.sub_eq_zero_of_le hlen,
    List.drop_zero]

/-- A built frame alone is delivered exactly when it is a candidate. -/
theorem scan_build_iff {addr cmd : Byte} {p : Seq} :
    scan (build addr cmd p) = build addr cmd p ↔ isCandidate (build addr cmd p) := by
  constructor
  · intro h
    rcases scan_cases (build addr cmd p) with hnil | ⟨hc, -, -⟩
    · rw [h] at hnil
      cases hnil
    · rwa [h] at hc
  · intro hc
    simpa using scan_candidate_append hc (verify_build addr cmd p) []

/-- Settles O51: the burst leaves the frame as the whole content, of which EXTRACT delivers the scan; the interior is
the fields, with the payload's delimiters kept by the stuffing. -/
theorem frameSurvivesExactlyWithoutInnerDelimiters : Obligations.FrameSurvivesExactlyWithoutInnerDelimiters := by
  intro addr cmd p s hbuf hlen
  have hN : 1 ≤ s.N := by
    have := length_build addr cmd p
    omega
  have hburst := exec_bufWriteBurst_of_pos (build addr cmd p) hN
  rw [hbuf, foldl_bufAfterWrite_nil hN hlen] at hburst
  refine ⟨_, _, hburst, exec_extract_of_pos hN, ?_, ?_⟩
  · rw [← isCandidate_build_iff, ← scan_build_iff]
    exact ⟨Result.bytes.inj, congrArg Result.bytes⟩
  · rw [interior_build]
    simp only [List.forall_mem_append, forall_mem_stuff_iff, List.forall_mem_cons]
    tauto

/-- The scan delivers no more than the content. -/
theorem length_scan_le (d : Seq) : (scan d).length ≤ d.length := by
  rcases scan_cases d with hnil | ⟨-, -, hlen⟩
  · rw [hnil]
    exact Nat.zero_le _
  · exact hlen

/-- Settles O53: the content, and with it what the scan delivers, has no more than `N` bytes. -/
theorem frameLongerThanTheBufferIsLost : Obligations.FrameLongerThanTheBufferIsLost := by
  intro addr cmd p s hN hlen hlong
  have hburst := exec_bufWriteBurst_of_pos (build addr cmd p) hN
  rw [foldl_bufAfterWrite hN _ hlen] at hburst
  refine ⟨_, _, scan (lastBytes (s.buf ++ build addr cmd p) s.N), hburst, exec_extract_of_pos hN, rfl,
    fun hframe => ?_⟩
  have hscan := length_scan_le (lastBytes (s.buf ++ build addr cmd p) s.N)
  have hlast : (lastBytes (s.buf ++ build addr cmd p) s.N).length ≤ s.N := by
    rw [lastBytes, List.length_drop]
    omega
  rw [hframe] at hscan
  omega

end Sys2Proof.Machine
end

section
/-! PROOFS of the byte-serial EXTRACT (45_frame_extractor.md R156 to R164; log 8): its turns, and that together they are
the atomic one. -/

namespace Sys2Proof.Machine

/-! ### The turns -/

theorem Work.onEnd_idle {w : Work} (h : w.state = .idle) : w.onEnd = (w.advance, none) := by
  simp [Work.onEnd, h]

theorem Work.onOther_idle {w : Work} (h : w.state = .idle) (b : Byte) : w.onOther b = (w.advance, none) := by
  simp [Work.onOther, h]

theorem Work.onOther_inFrame {w : Work} (h : w.state = .inFrame) (b : Byte) :
    w.onOther b = ({ w.advance with acc := w.acc ++ [b] }, none) := by
  simp [Work.onOther, h]

theorem Work.onEnd_accept {w : Work} (h : w.state = .inFrame) (hv : verify (w.acc ++ [Config.END]) = true) :
    w.onEnd = ({ w.advance with acc := w.acc ++ [Config.END] }, some (w.acc ++ [Config.END])) := by
  simp [Work.onEnd, h, hv]

theorem Work.onEnd_reject {w : Work} (h : w.state = .inFrame) (hv : verify (w.acc ++ [Config.END]) = false) :
    w.onEnd = (w.advance.rejectCandidate, none) := by
  simp [Work.onEnd, h, hv]

/-- A row that takes a byte, as one turn of the scan, on a capacity of at least 1. -/
theorem exec_turn {i : Instr} {s : State} {g : Work → ScanTurn} {turn : ScanTurn} (hN : 1 ≤ s.N)
    (hexec : exec i s = s.operate fun s => s.scanned (g s.work)) (hturn : g s.work = turn) :
    exec i s = .next (s.scanned turn) := by
  rw [hexec, State.operate_of_pos hN, hturn]

/-- Settles O54: one turn per row and state of the scan. -/
theorem scanTransitionsFollowTheByteClass : Obligations.ScanTransitionsFollowTheByteClass := by
  intro s hN
  have hend {turn : ScanTurn} := exec_turn (turn := turn) (g := Work.onEnd) hN (exec_endByte s)
  have hescape {turn : ScanTurn} := exec_turn (turn := turn) (g := (·.onOther Config.ESCAPE)) hN (exec_escapeByte s)
  have hdata (b : Byte) {turn : ScanTurn} :=
    exec_turn (turn := turn) (g := (·.onOther b)) hN (exec_dataByte_onOther s b)
  refine ⟨exec_turn (g := Work.onStart) hN (exec_startByte s) rfl, fun hidle => ⟨?_, ?_, fun b => ?_⟩,
    fun hframe => ⟨fun hv => ?_, fun hv => ?_, ?_, fun b => ?_⟩⟩
  · exact hend (Work.onEnd_idle hidle)
  · exact hescape (Work.onOther_idle hidle _)
  · exact hdata b (Work.onOther_idle hidle b)
  · exact ⟨_, hend (Work.onEnd_accept hframe hv), rfl, s.sameStore_scanned _, rfl⟩
  · exact hend (Work.onEnd_reject hframe hv)
  · exact hescape (Work.onOther_inFrame hframe _)
  · exact hdata b (Work.onOther_inFrame hframe b)

/-! ### The steps -/

theorem step_scanStart {s : State} {rest : List Request} (hN : 1 ≤ s.N) (hpending : s.pending = .scanStart :: rest)
    (hphase : s.phase = .ready) : step s = .next (State.startScan { s with pending := rest }) := by
  have hfetch : s.fetch = .scanStart := by simp [State.fetch, hpending, hphase]
  simp only [step, hfetch]
  rw [← State.taken_eq hpending, State.operate_of_pos (s := s.taken) hN]

theorem step_scan_end {s : State} {rest : List Request} (hN : 1 ≤ s.N) (hpending : s.pending = .scan :: rest)
    (hphase : s.phase = .scanning) (hi : s.work.D.length ≤ s.work.i) :
    step s = .next (State.endScan { s with pending := rest }) := by
  have hfetch := (State.fetch_scan hpending hphase).trans (Work.fetchByte_of_end hi)
  simp only [step, hfetch]
  rw [← State.taken_eq hpending, State.operate_of_pos (s := s.taken) hN]

theorem step_scan_byte {s : State} {rest : List Request} {b : Byte} (hN : 1 ≤ s.N)
    (hpending : s.pending = .scan :: rest) (hphase : s.phase = .scanning) (hb : s.work.D[s.work.i]? = some b) :
    step s = .next (State.scanned { s with pending := rest } (s.work.scanByte b)) := by
  have hfetch := (State.fetch_scan hpending hphase).trans (Work.fetchByte_of_getElem? hb)
  rw [← State.taken_eq hpending, step_of_fetch_code hfetch rfl, exec_decodeByte,
    State.operate_of_pos (s := s.taken) hN]
  rfl

/-- Settles O55: by the first and the last step of the scan. -/
theorem scanStartsIdleAndEndsEmpty : Obligations.ScanStartsIdleAndEndsEmpty := fun _ _ hN =>
  ⟨fun hpending hphase =>
      ⟨_, step_scanStart hN hpending hphase, rfl, rfl, rfl, rfl, rfl, rfl, rfl, rfl⟩,
    fun hpending hphase hi =>
      ⟨_, step_scan_end hN hpending hphase hi, rfl, rfl, rfl, rfl, rfl, rfl⟩⟩

/-! ### The whole scan -/

/-- With `d` still ahead, at most one turn per byte of `d` and one more end the operation, with the result of the scan
over the registers and the store left alone (45_frame_extractor.md R158, R164). -/
theorem exists_run_scan (rest : List Request) (d : Seq) {s : State} (hN : 1 ≤ s.N) (hphase : s.phase = .scanning)
    (hd : s.work.D.drop s.work.i = d) :
    ∃ k t, k ≤ d.length + 1 ∧
      Sys2Proof.core.run k { s with pending := List.replicate k .scan ++ rest } = .next t ∧
      t.result = .bytes (s.work.scanRun d) ∧ t.buf = s.buf ∧ t.ring = s.ring ∧ t.N = s.N ∧ t.phase = .ready ∧
      t.pending = rest := by
  induction d generalizing s with
  | nil =>
    have hend : step { s with pending := .scan :: rest } = .next (State.endScan { s with pending := rest }) :=
      step_scan_end hN rfl hphase (List.drop_eq_nil_iff.1 hd)
    exact ⟨1, _, Nat.le_refl 1, run_succ_of_step hend 0, rfl, rfl, rfl, rfl, rfl, rfl⟩
  | cons b d ih =>
    have hb : s.work.D[s.work.i]? = some b := by
      rw [← List.head?_drop, hd]
      rfl
    have hstep (q : List Request) : step { s with pending := .scan :: q } =
        .next (State.scanned { s with pending := q } (s.work.scanByte b)) :=
      step_scan_byte hN rfl hphase hb
    rcases hturn : s.work.scanByte b with ⟨w, _ | f⟩
    · obtain ⟨hi, hD, -⟩ := Work.scanByte_bounds hturn
      have hd' : w.D.drop w.i = d := by
        rw [hi, hD, ← List.tail_drop, hd]
        rfl
      obtain ⟨k, t, hk, hrun, hresult, hstore⟩ := ih (s := { s with work := w, result := .none }) hN hphase hd'
      refine ⟨k + 1, t, Nat.succ_le_succ hk, ?_, ?_, hstore⟩
      · rw [List.replicate_succ, List.cons_append]
        refine (run_succ_of_step (hstep _) k).trans ?_
        rw [hturn]
        exact hrun
      · rw [hresult, Work.scanRun, hturn]
    · have hend := hstep rest
      rw [hturn] at hend
      refine ⟨1, _, Nat.succ_le_succ (Nat.zero_le _), run_succ_of_step hend 0, ?_, rfl, rfl,
        rfl, rfl, rfl⟩
      rw [Work.scanRun, hturn]
      rfl

/-- Settles O56: the first step drains and loads the registers, and the turns of `exists_run_scan` over the whole
snapshot deliver `scan` of it, as the atomic EXTRACT does. -/
theorem byteSerialExtractRefinesExtract : Obligations.ByteSerialExtractRefinesExtract := by
  intro s rest hN hphase
  obtain ⟨k, t, hk, hrun, hresult, hbuf, hring, hcap, hready, hpending⟩ :=
    exists_run_scan rest s.buf (s := s.startScan) hN rfl rfl
  have hstart : step { s with pending := .scanStart :: (List.replicate k .scan ++ rest) } =
      .next { s.startScan with pending := List.replicate k .scan ++ rest } :=
    step_scanStart (s := { s with pending := .scanStart :: (List.replicate k .scan ++ rest) }) hN rfl hphase
  refine ⟨k, t, _, hk, (run_succ_of_step hstart k).trans hrun, exec_extract_of_pos hN, ?_, hbuf,
    hring, hcap, hready, hpending⟩
  rw [hresult, State.startScan_work, Work.scanRun_loadScan]
  rfl

end Sys2Proof.Machine
end
